-- ==== Sys2Proof/Word.lean ====
section
/-! DEFINITION. The words of the block: every width the spec gives (00_scope.md R5 and R8,
10_state.md R21 to R29, 30_encoding.md R91 to R104), and the one-bit quantities as Bool.
All quantities are unsigned; bit 0 is the least significant bit (R8). -/

namespace Sys2Proof

/-- Eight bits: a character (R94, R100), a `pos` or `digit` operand (R93, R95), a segment mask (R102),
a packed slot (R63). -/
abbrev Byte := BitVec 8

/-- The 24-bit command word (R91). -/
abbrev CommandWord := BitVec 24

/-- The 32-bit words of the blink timer and the wall clock (R28, R29, R211). -/
abbrev Word32 := BitVec 32

/-- A pin identifier: 8 bits, `0xFF` being the sentinel (R104). -/
abbrev PinId := BitVec 8

/-- The address of one slot of the display buffer, 0 to 15 (R60). -/
abbrev SlotIndex := BitVec 4

/-- A glyph code as it is stored: 5 bits (R21, R101). -/
abbrev GlyphCode := BitVec 5

/-- A logic level: `false` is 0, the low level, and `true` is 1, the high one (R103). -/
abbrev Level := Bool

/-- `BUFFER_SIZE`, the number of slots (R5). -/
def bufferSize : Nat := 16

/-- `NUM_GLYPHS`, the number of rows of the glyph table (R5). -/
def numGlyphs : Nat := 18

/-- `NUM_SEGMENTS`: seven bars and the decimal point (R5). -/
def numSegments : Nat := 8

/-- `GLYPH_BLANK` (R5). -/
def glyphBlank : GlyphCode := 16#5

/-- `GLYPH_DASH`, also the fallback for unrecognised characters (R5). -/
def glyphDash : GlyphCode := 17#5

/-- `DEFAULT_BLINK_INTERVAL_MS` (R5). -/
def defaultBlinkIntervalMs : BitVec 16 := 300#16

/-- `UNUSED`, the sentinel that marks a pin as not wired (R5, R104). -/
def unusedPin : PinId := 0xFF#8

end Sys2Proof
end

