-- ==== Sys2Proof/Syntax.lean ====
section
/-! DEFINITION. The thirteen operations of the block (00_scope.md R11, 30_encoding.md R92), one constructor per
row of spec/opcode_table.json, with the operands of R93 to R96. The `now` of `REFRESH(now)` is no operand of
the command word: it is sampled from the `now` port (R92, R105) and stands in the machine's state. -/

namespace Sys2Proof

inductive Instr where
  /-- `BEGIN`: configure, shut down, clear, enable. -/
  | begin
  /-- `CLEAR`: blank the buffer, cursor to 0. -/
  | clear
  /-- `HOME`: cursor to 0. -/
  | home
  /-- `SETCURSOR pos`, `pos = operand[7:0]` (R93). -/
  | setcursor (pos : Byte)
  /-- `WRITE ch`, `ch = operand[7:0]` (R94). -/
  | write (ch : Byte)
  /-- `SETDP digit, on`, `digit = operand[7:0]`, `on = operand[8]` (R95). -/
  | setdp (digit : Byte) (on : Bool)
  /-- `BLINKDIGIT digit`, `digit = operand[7:0]` (R95). -/
  | blinkdigit (digit : Byte)
  /-- `NOBLINKDIGIT digit`, `digit = operand[7:0]` (R95). -/
  | noblinkdigit (digit : Byte)
  /-- `NOBLINK`: clear every blink flag. -/
  | noblink
  /-- `DISPLAY`: enable. -/
  | display
  /-- `NODISPLAY`: shut down and disable. -/
  | nodisplay
  /-- `SETBLINKINTERVAL ms`, `ms = operand[15:0]` (R96). -/
  | setblinkinterval (ms : BitVec 16)
  /-- `REFRESH`: the refresh step; `now` comes from the port. -/
  | refresh
deriving DecidableEq, Repr

end Sys2Proof
end

