-- ==== Sys2Proof/Decode.lean ====
section
/-! DEFINITION. The command word (30_encoding.md R91 to R98), read and written: the decoder, total on any 24 bits
and on any bytes, which rejects a reserved opcode by name, and after it the encoder. The byte-wide form of a
command word is opcode byte first (20_memory.md R65). -/

namespace Sys2Proof

/-- Why the decoder gives no instruction. -/
inductive DecodeReject where
  /-- The opcode is `0x00` or `0x0E` to `0xFF` (R97). -/
  | reservedOpcode (opcode : Byte)
  /-- A byte-wide channel ended inside a command word (R65). -/
  | truncated
deriving DecidableEq, Repr

/-- `opcode = cmd[23:16]` (R91). -/
def opcodeOf (w : CommandWord) : Byte := w.extractLsb' 16 8

/-- `operand = cmd[15:0]` (R91). -/
def operandOf (w : CommandWord) : BitVec 16 := w.extractLsb' 0 16

/-- `operand[7:0]`, the field of `pos`, `ch` and `digit` (R93 to R95). -/
def lowByteOf (operand : BitVec 16) : Byte := operand.extractLsb' 0 8

/-- `operand[8]`, the field of `on` (R95). -/
def onBitOf (operand : BitVec 16) : Bool := operand[8]

/-- The opcode map (R92) with the operand assembly of R93 to R96. Operand bits that a row gives no field are
ignored (R98). -/
def decodeFields (opcode : Byte) (operand : BitVec 16) : Except DecodeReject Instr :=
  match opcode.toNat with
  | 0x01 => .ok .begin
  | 0x02 => .ok .clear
  | 0x03 => .ok .home
  | 0x04 => .ok (.setcursor (lowByteOf operand))
  | 0x05 => .ok (.write (lowByteOf operand))
  | 0x06 => .ok (.setdp (lowByteOf operand) (onBitOf operand))
  | 0x07 => .ok (.blinkdigit (lowByteOf operand))
  | 0x08 => .ok (.noblinkdigit (lowByteOf operand))
  | 0x09 => .ok .noblink
  | 0x0A => .ok .display
  | 0x0B => .ok .nodisplay
  | 0x0C => .ok (.setblinkinterval operand)
  | 0x0D => .ok .refresh
  | _ => .error (.reservedOpcode opcode)

/-- The decoder, total on the 24-bit words (R91, R92). -/
def decodeWord (w : CommandWord) : Except DecodeReject Instr := decodeFields (opcodeOf w) (operandOf w)

/-- A command word from three bytes of a byte-wide channel: opcode, `operand[15:8]`, `operand[7:0]` (R65). -/
def wordOfBytes (op hi lo : Byte) : CommandWord := op ++ hi ++ lo

/-- Decoding from a byte-wide channel (R65): the instruction and the bytes after it. -/
def decodeBytes : List Byte → Except DecodeReject (Instr × List Byte)
  | op :: hi :: lo :: rest =>
    match decodeWord (wordOfBytes op hi lo) with
    | .ok i => .ok (i, rest)
    | .error e => .error e
  | _ => .error .truncated

/-- The decoder on a word numbered as spec/opcode_table.json numbers it: one 24-bit word, bit 0 its least
significant bit, the bits above `nbits` zero. -/
def decodeTableWord (nbits w : Nat) : Option Instr :=
  match decodeWord (BitVec.ofNat 24 (w % 2 ^ nbits)) with
  | .ok i => some i
  | .error _ => none

/-- The opcode column of R92. -/
def Instr.opcode : Instr → Byte
  | .begin => 0x01#8
  | .clear => 0x02#8
  | .home => 0x03#8
  | .setcursor _ => 0x04#8
  | .write _ => 0x05#8
  | .setdp _ _ => 0x06#8
  | .blinkdigit _ => 0x07#8
  | .noblinkdigit _ => 0x08#8
  | .noblink => 0x09#8
  | .display => 0x0A#8
  | .nodisplay => 0x0B#8
  | .setblinkinterval _ => 0x0C#8
  | .refresh => 0x0D#8

/-- The operand half of the word; bits without a field are written as 0 (R98). -/
def Instr.operand : Instr → BitVec 16
  | .begin => 0
  | .clear => 0
  | .home => 0
  | .setcursor pos => 0#8 ++ pos
  | .write ch => 0#8 ++ ch
  | .setdp digit on => 0#7 ++ BitVec.ofBool on ++ digit
  | .blinkdigit digit => 0#8 ++ digit
  | .noblinkdigit digit => 0#8 ++ digit
  | .noblink => 0
  | .display => 0
  | .nodisplay => 0
  | .setblinkinterval ms => ms
  | .refresh => 0

/-- The operand bits that are fields of the operation (R92 to R96); the others are ignored. -/
def Instr.fieldMask : Instr → BitVec 16
  | .begin => 0
  | .clear => 0
  | .home => 0
  | .setcursor _ => 0x00FF#16
  | .write _ => 0x00FF#16
  | .setdp _ _ => 0x01FF#16
  | .blinkdigit _ => 0x00FF#16
  | .noblinkdigit _ => 0x00FF#16
  | .noblink => 0
  | .display => 0
  | .nodisplay => 0
  | .setblinkinterval _ => 0xFFFF#16
  | .refresh => 0

/-- The encoder: `{opcode, operand}` (R91). -/
def encode (i : Instr) : CommandWord := i.opcode ++ i.operand

/-- The three bytes of an encoded instruction on a byte-wide channel (R65). -/
def encodeBytes (i : Instr) : List Byte :=
  [i.opcode, i.operand.extractLsb' 8 8, i.operand.extractLsb' 0 8]

end Sys2Proof
end

