-- ==== Sys2Proof/Config.lean ====
section
/-! DEFINITION. What is fixed at construction (00_scope.md R5, 10_state.md R30): the configuration record,
with the parameters the spec leaves open (93_implementation_defined.md U4, U5) as fields of it, and the
configuration `K4` of the test vectors, which is the one `State.reset` is built from.
The model needs no free value: every behaviour the spec leaves open is a field of this record, a refusal
(U1, U3) or a level that a claim quantifies over (U2, Sys2Proof/Safety.lean). -/

namespace Sys2Proof

/-- The two timebases of the blink timer (43_blink_timer.md R180). -/
inductive Timebase where
  | wallClock
  | tickCount
deriving DecidableEq, Repr

/-- The construction-time options (R5, second and third table). A record of this type is a configuration of
the block only when it is valid (R7; `Config.valid` in Sys2Proof/WellFormed.lean). -/
structure Config where
  /-- `segmentPins[0..7]`: eight pin identifiers, index 7 the decimal point. -/
  segmentPins : List PinId
  /-- `commonDriverPins[0..displaysCount-1]`. -/
  commonDriverPins : List PinId
  /-- The number of physical digits. -/
  displaysCount : Nat
  /-- `refreshPeriodMicros`, 0 for a refresh driven by the main loop. -/
  refreshPeriodMicros : Word32
  /-- The timebase when it is given directly; `none` when the period selects it (R6). -/
  timebaseGiven : Option Timebase
  /-- The level of a lit segment. -/
  segmentActiveLevel : Level
  /-- The level of an enabled common line. -/
  commonActiveLevel : Level
  /-- `GLYPH_MASK`, the glyph table (R122, U5). -/
  glyphMask : Vector Byte 18
  /-- `DEFAULT_TICK_PERIOD_MICROS`, the substitute for a zero tick period (R6, U4). -/
  defaultTickPeriodMicros : Word32
deriving DecidableEq, Repr

/-- The default glyph table (R122): segment 0 to 6 are the bars a to g, bit 7 is 0 in every row. -/
def defaultGlyphMask : Vector Byte 18 :=
  #v[0x3F#8, 0x06#8, 0x5B#8, 0x4F#8, 0x66#8, 0x6D#8, 0x7D#8, 0x07#8, 0x7F#8, 0x6F#8,
     0x77#8, 0x7C#8, 0x39#8, 0x5E#8, 0x79#8, 0x71#8, 0x00#8, 0x40#8]

/-- The default substitute for a zero tick period: 1000 microseconds (R5). -/
def defaultTickPeriod : Word32 := 1000#32

/-- Configuration `K4` of 95_test_vectors.md: four digits, active-high wiring, wall-clock timebase. -/
def Config.k4 : Config where
  segmentPins := [0, 1, 2, 3, 4, 5, 6, 7]
  commonDriverPins := [10, 11, 12, 13]
  displaysCount := 4
  refreshPeriodMicros := 0
  timebaseGiven := some .wallClock
  segmentActiveLevel := true
  commonActiveLevel := true
  glyphMask := defaultGlyphMask
  defaultTickPeriodMicros := defaultTickPeriod

end Sys2Proof
end

