-- ==== Sys2Proof/Machine/Timebase.lean ====
section
/-! DEFINITION. What the configuration determines once and for all about the blink timer: the timebase and the
effective tick period (00_scope.md R6), and the interval a number of milliseconds becomes (43_blink_timer.md
R183 to R185). -/

namespace Sys2Proof

/-- The timebase: as given, otherwise selected by the period (R6). -/
def Config.timebase (c : Config) : Timebase :=
  match c.timebaseGiven with
  | some t => t
  | none => if c.refreshPeriodMicros = 0 then .wallClock else .tickCount

/-- `tickPeriodEff`: the period, or its substitute where it is zero (R6, R205). Unused in wall-clock mode. -/
def Config.tickPeriodEff (c : Config) : Word32 :=
  if c.refreshPeriodMicros = 0 then c.defaultTickPeriodMicros else c.refreshPeriodMicros

/-- `MsToTicks(ms) = floor(ms * 1000 / tickPeriodEff)`, exact in 32 bits (R184). -/
def Config.msToTicks (c : Config) (ms : BitVec 16) : Word32 :=
  BitVec.ofNat 32 (ms.toNat * 1000 / c.tickPeriodEff.toNat)

/-- The stored interval of `ms` milliseconds in the unit of the timebase (R183). -/
def Config.intervalOf (c : Config) (ms : BitVec 16) : Word32 :=
  match c.timebase with
  | .wallClock => ms.setWidth 32
  | .tickCount => c.msToTicks ms

end Sys2Proof
end

