-- ==== Sys2Proof/WellFormed.lean ====
section
/-! DEFINITION. What is checked before anything runs. An instruction has no check of its own: its operands have
exactly the widths of 30_encoding.md R93 to R96 and every value of each is admitted, so the check is on the
configuration (00_scope.md R7), one Bool per clause of that rule. -/

namespace Sys2Proof

/-- Every value of every operand field is an operand the rules give a meaning to (R93 to R96). -/
def Instr.wellFormed : Instr → Bool
  | .begin => true
  | .clear => true
  | .home => true
  | .setcursor _ => true
  | .write _ => true
  | .setdp _ _ => true
  | .blinkdigit _ => true
  | .noblinkdigit _ => true
  | .noblink => true
  | .display => true
  | .nodisplay => true
  | .setblinkinterval _ => true
  | .refresh => true

/-- The pins of both lists that are wired, in the order segments, commons (R7). -/
def Config.wiredPins (c : Config) : List PinId :=
  (c.segmentPins ++ c.commonDriverPins).filter (fun p => p != unusedPin)

/-- `1 <= displaysCount <= BUFFER_SIZE` (R7). -/
def Config.countOk (c : Config) : Bool :=
  decide (1 ≤ c.displaysCount) && decide (c.displaysCount ≤ bufferSize)

/-- `commonDriverPins` has exactly `displaysCount` entries (R7). -/
def Config.commonsOk (c : Config) : Bool :=
  c.commonDriverPins.length == c.displaysCount

/-- `segmentPins` has exactly eight entries (R7). -/
def Config.segmentsOk (c : Config) : Bool :=
  c.segmentPins.length == numSegments

/-- The wired pins are pairwise different across both lists (R7). -/
def Config.pinsDistinct (c : Config) : Bool :=
  decide c.wiredPins.Nodup

/-- The substituted tick period is not zero (R5, R6; 93_implementation_defined.md U4). -/
def Config.defaultPeriodOk (c : Config) : Bool :=
  c.defaultTickPeriodMicros != 0

/-- A configuration of the block (R7). The model refuses any other. -/
def Config.valid (c : Config) : Bool :=
  c.countOk && c.commonsOk && c.segmentsOk && c.pinsDistinct && c.defaultPeriodOk

end Sys2Proof
end

