-- ==== Sys2Proof/Machine/State.lean ====
section
/-! DEFINITION. The state of one instance of the block (10_state.md R20 to R36), with the ports of
30_encoding.md R90 as plain data: the inputs as they are sampled, the inputs still to come, and the outputs of
the last step. Reset is construction (R35, R230). -/

namespace Sys2Proof.Machine

/-- The display buffer (20_memory.md R60, R63): packed slots by slot index, strictly rising, no entry equal to
the blank slot, which is what an unlisted slot reads as. -/
abbrev Memory := List Host.Cell

/-- The line latches (R36) by pin identifier, strictly rising; a pin that is not listed is `unwritten`. -/
abbrev Lines := List (Nat × Level)

/-- The value of one line latch (R36). -/
inductive Latch where
  /-- No `writeLevel` call was made for the pin since construction. -/
  | unwritten
  /-- The level last written. -/
  | driven (l : Level)
deriving DecidableEq, Repr

/-- How far the host has gone in the boot sequence (R232, R233): the premises R31 (I-d), (I-e) and R233 name. -/
inductive Boot where
  /-- No `BEGIN` and no `NODISPLAY` since construction: no level of a line is known from a shutdown. -/
  | fresh
  /-- A `NODISPLAY` and no `BEGIN`: every wired line was written, no pin was ever configured. -/
  | shutDown
  /-- A `BEGIN`: every wired pin was configured, and then written. -/
  | begun
deriving DecidableEq, Repr

/-- One call of the GPIO collaborator (R10, R209, R210). -/
inductive GpioCall where
  | configureOutput (p : PinId)
  | writeLevel (p : PinId) (l : Level)
deriving DecidableEq, Repr

/-- The input ports in one step (R90). -/
structure Ports where
  cmdValid : Bool
  cmd : CommandWord
  refreshTick : Bool
  now : Word32
  rdAddr : SlotIndex
deriving DecidableEq, Repr

@[ext]
structure State where
  /-- The configuration: read-only, written by no event (R30). -/
  config : Config
  /-- The display buffer: `glyph[i]`, `dp[i]`, `blink[i]` in the packed view of R63 (R21 to R23, R32). -/
  memory : Memory
  /-- `cursor`, 0 to 16 (R25). -/
  cursor : BitVec 5
  /-- `activeDigit`, below `displaysCount` (R24). -/
  activeDigit : BitVec 4
  /-- `enabled`: the state of the scheduler (R26). -/
  enabled : Bool
  /-- `blinkOff`: the blink phase (R27). -/
  blinkOff : Bool
  /-- `blinkInterval`, milliseconds or ticks (R28). -/
  blinkInterval : Word32
  /-- `blinkTimer`, the last toggle time or the tick counter (R29). -/
  blinkTimer : Word32
  /-- `line[p]` (R36). -/
  lines : Lines
  /-- The history R31 and R233 take as a premise, kept by the model; no event reads it (assumption 23). -/
  boot : Boot
  /-- The input ports as the current step samples them (R90, R105). -/
  ports : Ports
  /-- What the host presents on the input ports in the steps to come, next step first (R69, R105). -/
  pending : List Ports
  /-- `resp`, the answer of the last event performed (R90, R99). -/
  resp : Bool
  /-- The GPIO calls of the step, oldest first (R10, R70). -/
  trace : List GpioCall
deriving DecidableEq, Repr

/-- Why the machine stops with a fault. It never does: the block raises no exception and every error condition
degrades to a defined outcome (60_exceptions.md R200), so the type has no constructor. -/
inductive Fault where
deriving DecidableEq, Repr

/-- Why an event has no meaning. -/
inductive Refusal where
  /-- Raised by an arm of `exec` whose instruction has no meaning yet; no arm does. Safe. -/
  | notModelled (mnemonic : String)
  /-- Raised by every event and by every step when the configuration is not valid (R7, U3: "a model refuses an
  invalid one"). Safe: the rules give such a state no meaning. -/
  | invalidConfiguration
  /-- Raised by an enabled `REFRESH` whose effective glyph is a code above 17 (R121, R219, U1: treatment
  `refuse`). No reachable state raises it. Safe. -/
  | glyphCodeOutOfRange
  /-- Raised by an enabled `REFRESH` whose `activeDigit` names no physical digit, for which there is no common
  line (R24, R62). No reachable state raises it. Safe. -/
  | activeDigitOutOfRange
deriving DecidableEq, Repr

/-- The answer of an event. -/
abbrev Answer := Host.Outcome State Fault Refusal

/-- Input ports on which nothing is presented. -/
def Ports.quiet : Ports :=
  { cmdValid := false, cmd := 0, refreshTick := false, now := 0, rdAddr := 0 }

/-- The state after construction with configuration `c`, before any event (R35, R185, R230). -/
def State.initial (c : Config) : State where
  config := c
  memory := []
  cursor := 0
  activeDigit := 0
  enabled := false
  blinkOff := false
  blinkInterval := c.intervalOf defaultBlinkIntervalMs
  blinkTimer := 0
  lines := []
  boot := .fresh
  ports := Ports.quiet
  pending := []
  resp := false
  trace := []

/-- Construction: no state is constructed from an invalid configuration (R7, U3). -/
def State.construct (c : Config) : Option State :=
  if c.valid then some (State.initial c) else none

/-- The machine right after reset: an instance constructed with configuration `K4`. -/
def State.reset : State := State.initial Config.k4

/-! Updates of one field each, so that the meanings and the proofs name what they change. -/

def State.withMemory (s : State) (m : Memory) : State := { s with memory := m }
def State.withCursor (s : State) (v : BitVec 5) : State := { s with cursor := v }
def State.withActiveDigit (s : State) (v : BitVec 4) : State := { s with activeDigit := v }
def State.withEnabled (s : State) (v : Bool) : State := { s with enabled := v }
def State.withBlinkOff (s : State) (v : Bool) : State := { s with blinkOff := v }
def State.withBlinkInterval (s : State) (v : Word32) : State := { s with blinkInterval := v }
def State.withBlinkTimer (s : State) (v : Word32) : State := { s with blinkTimer := v }
def State.withLines (s : State) (v : Lines) : State := { s with lines := v }
def State.withBoot (s : State) (v : Boot) : State := { s with boot := v }
def State.withPorts (s : State) (v : Ports) : State := { s with ports := v }
def State.withPending (s : State) (v : List Ports) : State := { s with pending := v }
def State.withResp (s : State) (v : Bool) : State := { s with resp := v }
def State.withTrace (s : State) (v : List GpioCall) : State := { s with trace := v }

end Sys2Proof.Machine
end

