-- ==== Sys2Proof/Machine/Ops.lean ====
section
/-! DEFINITION. The named operations over the display buffer, the line latches and the GPIO interface: the
sorted lists both are kept in, MemRead and MemWrite and the three field stores (20_memory.md R63, R66),
GpioConfig, GpioWrite, SegLevel and ComLevel (00_scope.md R10), the shutdown (42_mux_scheduler.md R151), the read
ports (R64) and the output registers (30_encoding.md R90).
There is no exception entry and no return from one: the block has neither (60_exceptions.md R200, R218). -/

namespace Sys2Proof.Machine

/-! ## Lists by key, strictly rising -/

/-- The value stored under a key. -/
def Assoc.lookup {α : Type} (k : Nat) : List (Nat × α) → Option α
  | [] => none
  | c :: rest => if c.1 = k then some c.2 else Assoc.lookup k rest

/-- Store a value under a key, keeping the keys rising. -/
def Assoc.insert {α : Type} (k : Nat) (v : α) : List (Nat × α) → List (Nat × α)
  | [] => [(k, v)]
  | c :: rest =>
    if k < c.1 then (k, v) :: c :: rest
    else if k = c.1 then (k, v) :: rest
    else c :: Assoc.insert k v rest

/-- Remove every entry of a key. -/
def Assoc.erase {α : Type} (k : Nat) : List (Nat × α) → List (Nat × α)
  | [] => []
  | c :: rest => if c.1 = k then Assoc.erase k rest else c :: Assoc.erase k rest

/-- The keys are strictly rising. -/
def Assoc.rising {α : Type} : List (Nat × α) → Bool
  | [] => true
  | [_] => true
  | a :: b :: rest => decide (a.1 < b.1) && Assoc.rising (b :: rest)

/-! ## The display buffer -/

/-- The packed byte of a slot: `{dp, blink, 0b0, glyph[4:0]}` (R63). -/
def packSlot (dp blink : Bool) (glyph : GlyphCode) : Byte :=
  BitVec.ofBool dp ++ BitVec.ofBool blink ++ 0#1 ++ glyph

/-- What an unlisted slot reads as: a blank slot, the reset contents of the buffer (R35, R63). -/
def blankByte : Byte := packSlot false false glyphBlank

/-- `MemRead(i, 1)` (R63). -/
def Memory.read (m : Memory) (i : SlotIndex) : Byte :=
  (Assoc.lookup i.toNat m).getD blankByte

/-- Bit 7 of the packed view: the decimal-point flag. -/
def Memory.dp (m : Memory) (i : SlotIndex) : Bool := (Memory.read m i)[7]

/-- Bit 6 of the packed view: the blink flag. -/
def Memory.blink (m : Memory) (i : SlotIndex) : Bool := (Memory.read m i)[6]

/-- Bits 4 to 0 of the packed view: the glyph code. -/
def Memory.glyph (m : Memory) (i : SlotIndex) : GlyphCode := (Memory.read m i).extractLsb' 0 5

/-- The byte a whole-slot write stores: the three fields of `v`, bit 5 discarded (R63). -/
def storedByte (v : Byte) : Byte := packSlot v[7] v[6] (v.extractLsb' 0 5)

/-- `MemWrite(i, 1, v)` (R63): writing the blank byte removes the entry, so that equal buffers are equal lists. For a byte
whose low five bits are above 17, which R63 calls not legal and gives no effect, the code is stored as it is: DESIGN
CHOICE, assumption 24. No event writes such a byte. -/
def Memory.write (m : Memory) (i : SlotIndex) (v : Byte) : Memory :=
  if storedByte v = blankByte then Assoc.erase i.toNat m else Assoc.insert i.toNat (storedByte v) m

/-- The store to `glyph[i]`: the other fields of the slot keep their values (R32, R66). -/
def Memory.setGlyph (m : Memory) (i : SlotIndex) (g : GlyphCode) : Memory :=
  Memory.write m i (packSlot (Memory.dp m i) (Memory.blink m i) g)

/-- The store to `dp[i]` (R32, R66). -/
def Memory.setDp (m : Memory) (i : SlotIndex) (b : Bool) : Memory :=
  Memory.write m i (packSlot b (Memory.blink m i) (Memory.glyph m i))

/-- The store to `blink[i]` (R32, R66). -/
def Memory.setBlink (m : Memory) (i : SlotIndex) (b : Bool) : Memory :=
  Memory.write m i (packSlot (Memory.dp m i) b (Memory.glyph m i))

/-- The slot indices 0 to 15, in the order the pseudocode visits them. -/
def allSlots : List SlotIndex := [0, 1, 2, 3, 4, 5, 6, 7, 8, 9, 10, 11, 12, 13, 14, 15]

/-- Every slot blank, no flag (the loop of R130 and R152). -/
def Memory.clearAll (m : Memory) : Memory :=
  allSlots.foldl (fun m i => Memory.write m i blankByte) m

/-- Every blink flag 0 (the loop of R137): each slot is treated alike and independently (R141), so the store to
slot `i` may take the other two fields from the buffer as the event found it. -/
def Memory.clearBlinks (m : Memory) : Memory :=
  allSlots.foldl (fun acc i => Memory.write acc i (packSlot (Memory.dp m i) false (Memory.glyph m i))) m

/-- The canonical form of the buffer: slot indices strictly rising and below 16, no entry equal to the blank
byte, bit 5 of every entry 0 (R63). -/
def Memory.wf (m : Memory) : Bool :=
  Assoc.rising m && m.all (fun c => decide (c.1 < bufferSize) && c.2 != blankByte && !c.2[5])

/-! ## The pins -/

/-- `SegLevel(b)` (R10): the level of a segment line whose lit state is `b`. -/
def segLevel (c : Config) (b : Bool) : Level :=
  if b then c.segmentActiveLevel else !c.segmentActiveLevel

/-- `ComLevel(b)` (R10): the level of a common line whose asserted state is `b`. -/
def comLevel (c : Config) (b : Bool) : Level :=
  if b then c.commonActiveLevel else !c.commonActiveLevel

/-- `segmentPins[k]`. In a valid configuration every `k` below 8 has an entry. -/
def segmentPin (c : Config) (k : Nat) : PinId := c.segmentPins.getD k unusedPin

/-- `commonDriverPins[i]`. In a valid configuration every `i` below `displaysCount` has an entry. -/
def commonPin (c : Config) (i : Nat) : PinId := c.commonDriverPins.getD i unusedPin

/-- `line[p]` (R36). -/
def State.line (s : State) (p : PinId) : Latch :=
  match Assoc.lookup p.toNat s.lines with
  | some l => .driven l
  | none => .unwritten

/-- `GpioConfig(p)` (R10): no call for the sentinel, otherwise the call is appended to the trace. -/
def gpioConfig (s : State) (p : PinId) : State :=
  if p = unusedPin then s else s.withTrace (s.trace ++ [.configureOutput p])

/-- `GpioWrite(p, l)` (R10): no call for the sentinel, otherwise the line latch is set and the call appended. -/
def gpioWrite (s : State) (w : PinId × Level) : State :=
  if w.1 = unusedPin then s
  else (s.withLines (Assoc.insert w.1.toNat w.2 s.lines)).withTrace (s.trace ++ [.writeLevel w.1 w.2])

/-- Several `GpioConfig`, in order (R70). -/
def gpioConfigs (ps : List PinId) (s : State) : State := ps.foldl gpioConfig s

/-- Several `GpioWrite`, in order (R70). -/
def gpioWrites (ws : List (PinId × Level)) (s : State) : State := ws.foldl gpioWrite s

/-- The pins `BEGIN` configures: segments 0 to 7, then commons 0 to N-1 (R152). -/
def configuredPins (c : Config) : List PinId :=
  (List.range numSegments).map (segmentPin c) ++ (List.range c.displaysCount).map (commonPin c)

/-- The writes of `Shutdown()`: commons 0 to N-1, then segments 0 to 7, each to its inactive level (R151). -/
def shutdownWrites (c : Config) : List (PinId × Level) :=
  (List.range c.displaysCount).map (fun i => (commonPin c i, comLevel c false)) ++
  (List.range numSegments).map (fun k => (segmentPin c k, segLevel c false))

/-- `Shutdown()` (R151). -/
def shutdown (s : State) : State := gpioWrites (shutdownWrites s.config) s

/-- What a `NODISPLAY` makes of the history (R31, R233): the pins stay configured where they were. -/
def Boot.afterShutdown : Boot → Boot
  | .fresh => .shutDown
  | .shutDown => .shutDown
  | .begun => .begun

/-! ## Completion of an event -/

/-- Set `resp` (R99). -/
def answer (r : Bool) (s : State) : State := s.withResp r

/-- An event runs in a valid configuration and is refused in any other (R7, R200). -/
def perform (s t : State) : Answer :=
  if s.config.valid then .next t else .refused .invalidConfiguration

/-! ## The outputs -/

/-- `rd_data`: the packed slot at `rd_addr` (R64). -/
def State.rdData (s : State) : Byte := Memory.read s.memory s.ports.rdAddr

/-- `st_cursor` (R64). -/
def State.stCursor (s : State) : BitVec 5 := s.cursor

/-- `st_enabled` (R64). -/
def State.stEnabled (s : State) : Bool := s.enabled

/-- `seg_out[k]` of an implementation that owns its pins; no register for an unused entry (R90). -/
def State.segOut (s : State) (k : Nat) : Option Latch :=
  if segmentPin s.config k = unusedPin then none else some (s.line (segmentPin s.config k))

/-- `com_out[i]`; no register for an unused entry (R90). -/
def State.comOut (s : State) (i : Nat) : Option Latch :=
  if commonPin s.config i = unusedPin then none else some (s.line (commonPin s.config i))

end Sys2Proof.Machine
end

