-- ==== Sys2Proof/Machine/Operands.lean ====
section
/-! DEFINITION. How an operand or a pointer register becomes what an event uses: the clamp of `SETCURSOR`, and the
three sources of a slot index with their range checks (20_memory.md R61, R62). No check traps. -/

namespace Sys2Proof.Machine

/-- `min(pos, 16)` (R132, R139). -/
def clampCursor (pos : Byte) : BitVec 5 := BitVec.ofNat 5 (min pos.toNat bufferSize)

/-- The slot of a `digit` operand; `none` when `digit >= 16` (R62 (b), R134 to R136). -/
def slotOfDigit (digit : Byte) : Option SlotIndex :=
  if digit.toNat < bufferSize then some (digit.setWidth 4) else none

/-- The slot the cursor names; `none` at or beyond capacity (R62 (a), R133, R202). -/
def slotOfCursor (cursor : BitVec 5) : Option SlotIndex :=
  if cursor.toNat < bufferSize then some (cursor.setWidth 4) else none

/-- The digit before `a`, modulo `n` (R155 step 2, R166). -/
def previousDigit (n a : Nat) : Nat := if a = 0 then n - 1 else a - 1

/-- The digit after `a`, modulo `n` (R155 step 6, R166). -/
def nextDigit (n a : Nat) : Nat := (a + 1) % n

end Sys2Proof.Machine
end

