-- ==== Sys2Proof/Machine/Flags.lean ====
section
/-! DEFINITION. The flags that are computed and not loaded: the blink phase with its timer (43_blink_timer.md R181,
R182) and the effective glyph the phase and a slot's blink flag select (42_mux_scheduler.md R157). -/

namespace Sys2Proof.Machine

/-- `BlinkUpdate(now)` in wall-clock mode (R181): the difference is modulo 2^32. -/
def blinkUpdateWall (s : State) : State :=
  if s.blinkInterval ≤ s.ports.now - s.blinkTimer then
    (s.withBlinkOff (!s.blinkOff)).withBlinkTimer s.ports.now
  else s

/-- `BlinkUpdate(now)` in tick-count mode (R182): `now` is ignored. -/
def blinkUpdateTick (s : State) : State :=
  if s.blinkInterval ≤ s.blinkTimer + 1 then
    (s.withBlinkTimer 0).withBlinkOff (!s.blinkOff)
  else s.withBlinkTimer (s.blinkTimer + 1)

/-- `BlinkUpdate(now)`, by the timebase fixed at construction (R180). -/
def blinkUpdate (s : State) : State :=
  match s.config.timebase with
  | .wallClock => blinkUpdateWall s
  | .tickCount => blinkUpdateTick s

/-- The effective glyph of slot `a` (R157): blank when the slot blinks and the phase is in its off half. -/
def effectiveGlyph (s : State) (a : SlotIndex) : GlyphCode :=
  if Memory.blink s.memory a && s.blinkOff then glyphBlank else Memory.glyph s.memory a

end Sys2Proof.Machine
end

