-- ==== Sys2Proof/Machine/Blink.lean ====
section
/-! DEFINITION. The one command of the blink timer, `SETBLINKINTERVAL` (43_blink_timer.md). -/

namespace Sys2Proof.Machine

/-- `SETBLINKINTERVAL ms` (R183): the timer and the phase keep their values. -/
def execSetblinkinterval (ms : BitVec 16) (s : State) : Answer :=
  perform s (answer false (s.withBlinkInterval (s.config.intervalOf ms)))

end Sys2Proof.Machine
end

