-- ==== Sys2Proof/Machine/Glyph.lean ====
section
/-! DEFINITION. The glyph encoder (40_glyph_encoder.md): `encode` from characters to glyph codes, and
`segmentMaskOf` from glyph codes to segment masks. Neither reads or writes any state. -/

namespace Sys2Proof

/-- `encode(ch)` (R120), total over the 256 characters. -/
def encodeChar (ch : Byte) : GlyphCode :=
  let n := ch.toNat
  if 0x30 ≤ n ∧ n ≤ 0x39 then BitVec.ofNat 5 (n - 0x30)
  else if 0x41 ≤ n ∧ n ≤ 0x46 then BitVec.ofNat 5 (n - 0x41 + 10)
  else if 0x61 ≤ n ∧ n ≤ 0x66 then BitVec.ofNat 5 (n - 0x61 + 10)
  else if n = 0x20 then glyphBlank
  else if n = 0x2D then glyphDash
  else glyphDash

/-- A stored code as a row of the glyph table; `none` for the codes 18 to 31, for which the spec has no
row (R121, R219; 93_implementation_defined.md U1). -/
def glyphRow (g : GlyphCode) : Option (Fin 18) :=
  if h : g.toNat < 18 then some ⟨g.toNat, h⟩ else none

/-- `segmentMaskOf(g)` (R121): its domain is exactly the eighteen codes. -/
def Config.segmentMaskOf (c : Config) (g : Fin 18) : Byte := c.glyphMask[g]

end Sys2Proof
end

