-- ==== Sys2Proof/Machine/Buffer.lean ====
section
/-! DEFINITION. The eight display buffer commands (41_buffer_ops.md). They write only the buffer and the cursor and
make no GPIO call (R138). -/

namespace Sys2Proof.Machine

/-- `CLEAR` (R130). -/
def execClear (s : State) : Answer :=
  perform s (answer false ((s.withMemory (Memory.clearAll s.memory)).withCursor 0))

/-- `HOME` (R131). -/
def execHome (s : State) : Answer :=
  perform s (answer false (s.withCursor 0))

/-- `SETCURSOR pos` (R132). -/
def execSetcursor (pos : Byte) (s : State) : Answer :=
  perform s (answer false (s.withCursor (clampCursor pos)))

/-- `WRITE ch` (R133). -/
def execWrite (ch : Byte) (s : State) : Answer :=
  match slotOfCursor s.cursor with
  | none => perform s (answer false s)
  | some i =>
    perform s (answer true
      ((s.withMemory (Memory.setGlyph s.memory i (encodeChar ch))).withCursor (s.cursor + 1)))

/-- `SETDP digit, on` (R134). -/
def execSetdp (digit : Byte) (on : Bool) (s : State) : Answer :=
  match slotOfDigit digit with
  | none => perform s (answer false s)
  | some i => perform s (answer false (s.withMemory (Memory.setDp s.memory i on)))

/-- `BLINKDIGIT digit` (R135). -/
def execBlinkdigit (digit : Byte) (s : State) : Answer :=
  match slotOfDigit digit with
  | none => perform s (answer false s)
  | some i => perform s (answer false (s.withMemory (Memory.setBlink s.memory i true)))

/-- `NOBLINKDIGIT digit` (R136). -/
def execNoblinkdigit (digit : Byte) (s : State) : Answer :=
  match slotOfDigit digit with
  | none => perform s (answer false s)
  | some i => perform s (answer false (s.withMemory (Memory.setBlink s.memory i false)))

/-- `NOBLINK` (R137). -/
def execNoblink (s : State) : Answer :=
  perform s (answer false (s.withMemory (Memory.clearBlinks s.memory)))

end Sys2Proof.Machine
end

