-- ==== Sys2Proof/Machine/Scheduler.lean ====
section
/-! DEFINITION. The multiplexing scheduler (42_mux_scheduler.md): `BEGIN`, `DISPLAY`, `NODISPLAY` and the refresh
step. -/

namespace Sys2Proof.Machine

/-- `BEGIN` (R152). -/
def execBegin (s : State) : Answer :=
  let down := shutdown (gpioConfigs (configuredPins s.config) s)
  perform s (answer false
    ((((down.withMemory (Memory.clearAll down.memory)).withCursor 0).withEnabled true).withBoot .begun))

/-- `DISPLAY` (R153). -/
def execDisplay (s : State) : Answer :=
  perform s (answer false (s.withEnabled true))

/-- `NODISPLAY` (R154). -/
def execNodisplay (s : State) : Answer :=
  perform s (answer false ((((shutdown s).withActiveDigit 0).withEnabled false).withBoot s.boot.afterShutdown))

/-- The lit state of segment line `k` (R158): bit `k` of the mask, the decimal-point flag on line 7. -/
def segmentLitBit (mask : Byte) (dp : Bool) (k : Nat) : Bool :=
  if k = 7 then dp else mask.getLsbD k

/-- The writes of steps 2, 4 and 5 of the refresh of digit `a` (R155): the previous common line off, the eight
segment lines in ascending order, the common line of `a` on. -/
def refreshWrites (c : Config) (a : Nat) (mask : Byte) (dp : Bool) : List (PinId × Level) :=
  (commonPin c (previousDigit c.displaysCount a), comLevel c false) ::
  ((List.range numSegments).map (fun k => (segmentPin c k, segLevel c (segmentLitBit mask dp k))) ++
   [(commonPin c a, comLevel c true)])

/-- Steps 2 to 6 of the refresh of the active digit with the effective glyph `g` (R155). -/
def scanDigit (g : Fin 18) (s : State) : State :=
  (gpioWrites
    (refreshWrites s.config s.activeDigit.toNat (s.config.segmentMaskOf g) (Memory.dp s.memory s.activeDigit))
    s).withActiveDigit (BitVec.ofNat 4 (nextDigit s.config.displaysCount s.activeDigit.toNat))

/-- An enabled refresh step in a valid configuration (R155). The refusals are those of U1 and of an active
digit that does not exist, neither of which a reachable state meets. -/
def refreshEnabled (s : State) : Answer :=
  if s.config.displaysCount ≤ s.activeDigit.toNat then .refused .activeDigitOutOfRange
  else
    match glyphRow (effectiveGlyph (blinkUpdate s) s.activeDigit) with
    | none => .refused .glyphCodeOutOfRange
    | some g => .next (answer false (scanDigit g (blinkUpdate s)))

/-- `REFRESH` (R155, R162), with `now` as the step samples it from the port. -/
def execRefresh (s : State) : Answer :=
  if s.config.valid then
    if s.enabled then refreshEnabled s else .next (answer false s)
  else .refused .invalidConfiguration

end Sys2Proof.Machine
end

