-- ==== Sys2Proof/Machine/Dispatch.lean ====
section
/-! DEFINITION. One arm per instruction: each is one direct call of its meaning. -/

namespace Sys2Proof.Machine

def exec (i : Instr) (s : State) : Host.Outcome State Fault Refusal :=
  match i with
  | .begin => Sys2Proof.Machine.execBegin s
  | .clear => Sys2Proof.Machine.execClear s
  | .home => Sys2Proof.Machine.execHome s
  | .setcursor pos => Sys2Proof.Machine.execSetcursor pos s
  | .write ch => Sys2Proof.Machine.execWrite ch s
  | .setdp digit on => Sys2Proof.Machine.execSetdp digit on s
  | .blinkdigit digit => Sys2Proof.Machine.execBlinkdigit digit s
  | .noblinkdigit digit => Sys2Proof.Machine.execNoblinkdigit digit s
  | .noblink => Sys2Proof.Machine.execNoblink s
  | .display => Sys2Proof.Machine.execDisplay s
  | .nodisplay => Sys2Proof.Machine.execNodisplay s
  | .setblinkinterval ms => Sys2Proof.Machine.execSetblinkinterval ms s
  | .refresh => Sys2Proof.Machine.execRefresh s

end Sys2Proof.Machine
end

