-- ==== Sys2Proof/Machine/Sequencer.lean ====
section
/-! DEFINITION. What one step does around an event (30_encoding.md R105, 20_memory.md R73, 60_exceptions.md R207,
R208): it samples the input ports, performs the command that is presented, then the refresh step that is
presented. A reserved opcode is performed as a no-op (R97, R206). -/

namespace Sys2Proof.Machine

/-- The input ports of the next step: what the host presents, or nothing when it presents nothing. -/
def nextPorts (s : State) : Ports :=
  match s.pending with
  | p :: _ => p
  | [] => { s.ports with cmdValid := false, refreshTick := false }

/-- Sample the input ports; the trace of the step starts empty (R10, R105). -/
def sample (s : State) : State :=
  ((s.withPorts (nextPorts s)).withPending s.pending.tail).withTrace []

/-- A reserved opcode: no state change, no GPIO call, `resp = 0` (R97). -/
def reservedNoop (s : State) : Answer := .next (answer false s)

/-- The command in the command word `w` (R92, R97). -/
def performCommand (w : CommandWord) (s : State) : Answer :=
  match decodeWord w with
  | .ok i => exec i s
  | .error _ => reservedNoop s

/-- The event of the command port (R105). -/
def commandPhase (s : State) : Answer :=
  if s.ports.cmdValid then performCommand s.ports.cmd s else .next s

/-- `resp` is the answer of the command performed: a tick in the same step leaves it (R90, R99). -/
def keepCommandAnswer (s : State) (o : Answer) : Answer :=
  match o with
  | .next t => .next (if s.ports.cmdValid then t.withResp s.resp else t)
  | .fault r => .fault r
  | .refused r => .refused r

/-- The event of the refresh tick, after the command (R73, R105). -/
def tickPhase (s : State) : Answer :=
  if s.ports.refreshTick then keepCommandAnswer s (exec .refresh s) else .next s

/-- One after the other. -/
def andThen (o : Answer) (f : State → Answer) : Answer :=
  match o with
  | .next t => f t
  | .fault r => .fault r
  | .refused r => .refused r

/-- One step of the block. An invalid configuration has no step (R7). -/
def performStep (s : State) : Answer :=
  if s.config.valid then andThen (commandPhase (sample s)) tickPhase
  else .refused .invalidConfiguration

/-- Input ports that present command word `w` and no tick, the other ports as they are. -/
def commandPorts (p : Ports) (w : CommandWord) : Ports :=
  { p with cmdValid := true, cmd := w, refreshTick := false }

/-- Input ports that present a refresh tick at wall-clock value `now`, and no command. -/
def tickPorts (now : Word32) : Ports :=
  { cmdValid := false, cmd := 0, refreshTick := true, now := now, rdAddr := 0 }

/-- Present command word `w` in the very next step. -/
def presentCommand (s : State) (w : CommandWord) : State :=
  s.withPending (commandPorts s.ports w :: s.pending)

end Sys2Proof.Machine
end

