-- ==== Sys2Proof/Machine/Step.lean ====
section
/-! DEFINITION. The step function, and the placing of one command where the next step takes it. -/

namespace Sys2Proof.Machine

/-- One step (Sys2Proof/Machine/Sequencer.lean). -/
def step (s : State) : Host.Outcome State Fault Refusal := performStep s

/-- The command word of value `w` presented on the command port in the very next step, the bits above `nbits`
zero. -/
def State.withFetchWord (s : State) (nbits w : Nat) : State :=
  presentCommand s (BitVec.ofNat 24 (w % 2 ^ nbits))

end Sys2Proof.Machine
end

