-- ==== Sys2Proof/Machine/Writestr.lean ====
section
/-! DEFINITION. The one pseudo-instruction, `WRITESTR` (30_encoding.md R107): its expansion, and its response,
the sum of the responses of the writes. -/

namespace Sys2Proof.Machine

/-- `WRITESTR "c1c2...cn"` is `WRITE 'c1'`, ..., `WRITE 'cn'` (R107). -/
def expandWritestr (cs : List Byte) : List Instr := cs.map Instr.write

/-- The writes of a `WRITESTR`, one after the other, with the number of characters consumed (R107). -/
def runWritestr : List Byte → State → Host.Outcome (State × Nat) Fault Refusal
  | [], s => .next (s, 0)
  | c :: cs, s =>
    match exec (.write c) s with
    | .next t =>
      match runWritestr cs t with
      | .next u => .next (u.1, t.resp.toNat + u.2)
      | .fault r => .fault r
      | .refused r => .refused r
    | .fault r => .fault r
    | .refused r => .refused r

end Sys2Proof.Machine
end

