-- ==== Sys2Proof/Machine/Assembler.lean ====
section
/-! DEFINITION. The assembler syntax (30_encoding.md R106, R107): one command per line, the mnemonic and then the
operands in the order of the argument list, separated by commas; a numeric operand decimal or `0x` hexadecimal;
a character operand also as a literal in single quotes; `REFRESH @t` with the value of `now`; a `;` starts a
comment. It reads a line of text, writes an instruction as a line, and turns a line into what is presented on the
input ports. -/

namespace Sys2Proof.Machine

/-- What one line stands for. -/
inductive AsmItem where
  /-- A line with no command on it: blank, or only a comment. That it is read and stands for no command is a DESIGN
  CHOICE, assumption 18 (R106 is silent). -/
  | empty
  | command (i : Instr)
  /-- `REFRESH @t`. -/
  | refreshAt (now : Word32)
  /-- `WRITESTR "c1c2...cn"`. -/
  | writestr (cs : List Byte)
deriving DecidableEq, Repr

/-- Why a line is not one. The spec states no behaviour for such a line: the assembler rejects it by name. -/
inductive AsmReject where
  | unknownMnemonic
  | badOperand
  | operandOutOfRange
  | textAfterOperands
deriving DecidableEq, Repr

/-- The value of a decimal digit. -/
def decimalDigit (c : Char) : Option Nat :=
  if 0x30 ≤ c.toNat ∧ c.toNat ≤ 0x39 then some (c.toNat - 0x30) else none

/-- The value of a hexadecimal digit, in either case. -/
def hexDigit (c : Char) : Option Nat :=
  if 0x30 ≤ c.toNat ∧ c.toNat ≤ 0x39 then some (c.toNat - 0x30)
  else if 0x41 ≤ c.toNat ∧ c.toNat ≤ 0x46 then some (c.toNat - 0x41 + 10)
  else if 0x61 ≤ c.toNat ∧ c.toNat ≤ 0x66 then some (c.toNat - 0x61 + 10)
  else none

/-- Read digits as long as there are any; `none` when there is none. -/
def readDigits (base : Nat) (value : Char → Option Nat) : Option Nat → List Char → Option (Nat × List Char)
  | acc, [] => acc.map (fun n => (n, []))
  | acc, c :: cs =>
    match value c with
    | some d => readDigits base value (some (acc.getD 0 * base + d)) cs
    | none => acc.map (fun n => (n, c :: cs))

/-- A numeric operand: decimal or `0x` hexadecimal (R106). -/
def readNumber : List Char → Option (Nat × List Char)
  | [] => none
  | [c] => readDigits 10 decimalDigit none [c]
  | c :: d :: cs =>
    if c.toNat = 0x30 ∧ d.toNat = 0x78 then readDigits 16 hexDigit none cs
    else readDigits 10 decimalDigit none (c :: d :: cs)

/-- A space or a tab. -/
def isBlank (c : Char) : Bool := c.toNat == 0x20 || c.toNat == 0x09

/-- The text after leading spaces. -/
def skipBlanks : List Char → List Char
  | [] => []
  | c :: cs => if isBlank c then skipBlanks cs else c :: cs

/-- Nothing but a comment is left (R106). -/
def atLineEnd (cs : List Char) : Bool :=
  match skipBlanks cs with
  | [] => true
  | c :: _ => c.toNat == 0x3B

/-- The separator after a mnemonic: at least one space. -/
def afterMnemonic (cs : List Char) : Except AsmReject (List Char) :=
  match cs with
  | [] => .error .badOperand
  | c :: rest => if isBlank c then .ok (skipBlanks rest) else .error .badOperand

/-- A numeric operand below `bound`, and the text after it. -/
def operandBelow (bound : Nat) (cs : List Char) : Except AsmReject (Nat × List Char) :=
  match readNumber (skipBlanks cs) with
  | none => .error .badOperand
  | some (n, rest) => if n < bound then .ok (n, rest) else .error .operandOutOfRange

/-- The operand of `WRITE`: a literal in single quotes or a number (R106). -/
def charOperand (cs : List Char) : Except AsmReject (Nat × List Char) :=
  match cs with
  | a :: b :: c :: rest =>
    if a.toNat = 0x27 ∧ c.toNat = 0x27 then
      if b.toNat < 256 then .ok (b.toNat, rest) else .error .operandOutOfRange
    else operandBelow 256 cs
  | _ => operandBelow 256 cs

/-- The comma between two operands (R106). -/
def skipComma (cs : List Char) : Except AsmReject (List Char) :=
  match skipBlanks cs with
  | [] => .error .badOperand
  | c :: rest => if c.toNat = 0x2C then .ok rest else .error .badOperand

/-- The characters up to the closing double quote, which is the first one: there is no escape, so no double quote can be
among the characters of a `WRITESTR` (DESIGN CHOICE, assumption 25; R107 is silent). -/
def readQuoted : List Char → Except AsmReject (List Byte × List Char)
  | [] => .error .badOperand
  | c :: cs =>
    if c.toNat = 0x22 then .ok ([], cs)
    else if c.toNat < 256 then
      match readQuoted cs with
      | .ok r => .ok (BitVec.ofNat 8 c.toNat :: r.1, r.2)
      | .error e => .error e
    else .error .operandOutOfRange

/-- The end of a line that stands for `x`. -/
def finish (x : AsmItem) (cs : List Char) : Except AsmReject AsmItem :=
  if atLineEnd cs then .ok x else .error .textAfterOperands

/-- A command with one operand below `bound`. -/
def oneOperand (bound : Nat) (build : Nat → Instr) (cs : List Char) : Except AsmReject AsmItem := do
  let rest ← afterMnemonic cs
  let r ← operandBelow bound rest
  finish (.command (build r.1)) r.2

/-- `WRITE ch`. -/
def writeOperand (cs : List Char) : Except AsmReject AsmItem := do
  let rest ← afterMnemonic cs
  let r ← charOperand rest
  finish (.command (.write (BitVec.ofNat 8 r.1))) r.2

/-- `SETDP digit, on`. -/
def setdpOperands (cs : List Char) : Except AsmReject AsmItem := do
  let rest ← afterMnemonic cs
  let d ← operandBelow 256 rest
  let rest ← skipComma d.2
  let on ← operandBelow 2 rest
  finish (.command (.setdp (BitVec.ofNat 8 d.1) (on.1 == 1))) on.2

/-- `REFRESH` or `REFRESH @t`. No blank need stand before the `@`: DESIGN CHOICE, assumption 18 (R106 is silent). -/
def refreshOperand (cs : List Char) : Except AsmReject AsmItem :=
  match skipBlanks cs with
  | [] => .ok (.command .refresh)
  | c :: rest =>
    if c.toNat = 0x40 then do
      let r ← operandBelow (2 ^ 32) rest
      finish (.refreshAt (BitVec.ofNat 32 r.1)) r.2
    else finish (.command .refresh) cs

/-- `WRITESTR "c1c2...cn"` (R107). -/
def writestrOperand (cs : List Char) : Except AsmReject AsmItem := do
  let rest ← afterMnemonic cs
  match rest with
  | [] => .error .badOperand
  | c :: text =>
    if c.toNat = 0x22 then do
      let r ← readQuoted text
      finish (.writestr r.1) r.2
    else .error .badOperand

/-- One line of assembler text (R106). A line with no command on it is read as `empty`, which presents nothing: DESIGN
CHOICE, assumption 18 (R106 says one command per line and is silent on such a line). -/
def assembleLine (line : List Char) : Except AsmReject AsmItem :=
  let cs := skipBlanks line
  if atLineEnd cs then .ok .empty
  else
    let m := cs.takeWhile Char.isUpper
    let rest := cs.dropWhile Char.isUpper
    if m = "BEGIN".toList then finish (.command .begin) rest
    else if m = "CLEAR".toList then finish (.command .clear) rest
    else if m = "HOME".toList then finish (.command .home) rest
    else if m = "SETCURSOR".toList then oneOperand 256 (fun n => .setcursor (BitVec.ofNat 8 n)) rest
    else if m = "WRITE".toList then writeOperand rest
    else if m = "SETDP".toList then setdpOperands rest
    else if m = "BLINKDIGIT".toList then oneOperand 256 (fun n => .blinkdigit (BitVec.ofNat 8 n)) rest
    else if m = "NOBLINKDIGIT".toList then oneOperand 256 (fun n => .noblinkdigit (BitVec.ofNat 8 n)) rest
    else if m = "NOBLINK".toList then finish (.command .noblink) rest
    else if m = "DISPLAY".toList then finish (.command .display) rest
    else if m = "NODISPLAY".toList then finish (.command .nodisplay) rest
    else if m = "SETBLINKINTERVAL".toList then
      oneOperand 65536 (fun n => .setblinkinterval (BitVec.ofNat 16 n)) rest
    else if m = "REFRESH".toList then refreshOperand rest
    else if m = "WRITESTR".toList then writestrOperand rest
    else .error .unknownMnemonic

/-- A hexadecimal digit as a character. -/
def hexChar (n : Nat) : Char :=
  if n % 16 < 10 then Char.ofNat (0x30 + n % 16) else Char.ofNat (0x41 + (n % 16 - 10))

/-- An 8-bit operand as text: `0x` and two digits. -/
def byteText (b : Byte) : List Char :=
  ['0', 'x', hexChar (b.toNat / 16), hexChar b.toNat]

/-- A 16-bit operand as text: `0x` and four digits. -/
def halfText (h : BitVec 16) : List Char :=
  ['0', 'x', hexChar (h.toNat / 4096), hexChar (h.toNat / 256), hexChar (h.toNat / 16), hexChar h.toNat]

/-- An instruction as a line of assembler text (R106). -/
def renderLine : Instr → List Char
  | .begin => "BEGIN".toList
  | .clear => "CLEAR".toList
  | .home => "HOME".toList
  | .setcursor pos => "SETCURSOR ".toList ++ byteText pos
  | .write ch => "WRITE ".toList ++ byteText ch
  | .setdp digit on => "SETDP ".toList ++ byteText digit ++ (if on then ", 1".toList else ", 0".toList)
  | .blinkdigit digit => "BLINKDIGIT ".toList ++ byteText digit
  | .noblinkdigit digit => "NOBLINKDIGIT ".toList ++ byteText digit
  | .noblink => "NOBLINK".toList
  | .display => "DISPLAY".toList
  | .nodisplay => "NODISPLAY".toList
  | .setblinkinterval ms => "SETBLINKINTERVAL ".toList ++ halfText ms
  | .refresh => "REFRESH".toList

/-- What a line presents on the input ports, one entry a step; the other ports stay as in `p` (R105, R106). For a bare
`REFRESH`, which leaves `now` unstated, `now` is whatever `p` has (assumption 18). -/
def AsmItem.presented (p : Ports) : AsmItem → List Ports
  | .empty => []
  | .command i => [commandPorts p (encode i)]
  | .refreshAt t => [commandPorts { p with now := t } (encode .refresh)]
  | .writestr cs => (expandWritestr cs).map (fun i => commandPorts p (encode i))

end Sys2Proof.Machine
end

