-- ==== Sys2Proof/Safety.lean ====
section
/-! DEFINITION. What counts as a safe run, in the words the claims use: the calls that reach the GPIO collaborator
(00_scope.md R10, 42_mux_scheduler.md R160), the invariant of every reachable state (10_state.md R31 (I-a) to (I-c),
with the canonical forms of the buffer and the latches), the invariant of the common lines (R31 (I-d), (I-e),
42_mux_scheduler.md R163), when a segment of a digit is shown (R36), for every level an unwritten line may have
(93_implementation_defined.md U2), and runs of refresh ticks. -/

namespace Sys2Proof.Machine

/-! ## Calls -/

/-- The calls of a list of `GpioWrite` that reach the collaborator: those to pins that are not the sentinel. -/
def writeCalls (ws : List (PinId × Level)) : List GpioCall :=
  (ws.filter (fun w => w.1 != unusedPin)).map (fun w => .writeLevel w.1 w.2)

/-- The calls of a list of `GpioConfig` that reach the collaborator. -/
def configCalls (ps : List PinId) : List GpioCall :=
  (ps.filter (fun p => p != unusedPin)).map GpioCall.configureOutput

/-- The pin of a call. -/
def GpioCall.pin : GpioCall → PinId
  | .configureOutput p => p
  | .writeLevel p _ => p

/-! ## Invariants -/

/-- (I-a): every stored glyph code is a row of the table. -/
def glyphsLegal (s : State) : Prop := ∀ i, (Memory.glyph s.memory i).toNat ≤ 17

/-- The latches are in canonical form, and only wired pins have one (R36). -/
def linesLegal (s : State) : Prop :=
  Assoc.rising s.lines = true ∧ ∀ c ∈ s.lines, ∃ p ∈ s.config.wiredPins, c.1 = p.toNat

/-- In tick-count mode the interval and the counter stay below the wrap of the counter (R182, R184); in wall-clock
mode the interval is the 16-bit operand (R183). -/
def timerLegal (s : State) : Prop :=
  match s.config.timebase with
  | .wallClock => s.blinkInterval.toNat ≤ 65535
  | .tickCount => s.blinkInterval.toNat ≤ 65535000 ∧ s.blinkTimer.toNat < 65535000

/-- The invariant of every state reachable from construction (R31 (I-a) to (I-c), R7, R36, R182). -/
structure State.Inv (s : State) : Prop where
  config_valid : s.config.valid = true
  memory_wf : Memory.wf s.memory = true
  glyphs_legal : glyphsLegal s
  cursor_le : s.cursor.toNat ≤ 16
  active_lt : s.activeDigit.toNat < s.config.displaysCount
  lines_legal : linesLegal s
  timer_legal : timerLegal s

/-- Common line `i` is wired. -/
def commonWired (c : Config) (i : Nat) : Prop := commonPin c i ≠ unusedPin

/-- Segment line `k` is wired. -/
def segmentWired (c : Config) (k : Nat) : Prop := segmentPin c k ≠ unusedPin

/-- Common `i` is asserted (R36). -/
def State.commonAsserted (s : State) (i : Nat) : Prop :=
  s.line (commonPin s.config i) = .driven s.config.commonActiveLevel

/-- Common `i` has been written and is at its inactive level. -/
def State.commonInactive (s : State) (i : Nat) : Prop :=
  s.line (commonPin s.config i) = .driven (!s.config.commonActiveLevel)

/-- Segment `k` is lit (R36). -/
def State.segmentLit (s : State) (k : Nat) : Prop :=
  s.line (segmentPin s.config k) = .driven s.config.segmentActiveLevel

/-- Segment `k` has been written and is dark. -/
def State.segmentDark (s : State) (k : Nat) : Prop :=
  s.line (segmentPin s.config k) = .driven (!s.config.segmentActiveLevel)

/-- Every wired line is at its inactive level: the state a shutdown leaves (R151, (I-d)). -/
def State.allInactive (s : State) : Prop :=
  (∀ i, i < s.config.displaysCount → commonWired s.config i → s.commonInactive i) ∧
  (∀ k, k < numSegments → segmentWired s.config k → s.segmentDark k)

/-- The invariant of the line latches from the first `BEGIN` or `NODISPLAY` on ((I-d), (I-e), R163), with that premise as
its first clause: while disabled every
wired line is inactive; while enabled every wired common line but that of the digit refreshed last is inactive,
and every wired line has been written. -/
structure State.LinesKnown (s : State) : Prop where
  shut_down : s.boot ≠ .fresh
  disabled_inactive : s.enabled = false → s.allInactive
  others_inactive : ∀ i, i < s.config.displaysCount → commonWired s.config i →
    i ≠ previousDigit s.config.displaysCount s.activeDigit.toNat → s.commonInactive i
  commons_written : ∀ i, i < s.config.displaysCount → commonWired s.config i →
    s.line (commonPin s.config i) ≠ .unwritten
  segments_written : ∀ k, k < numSegments → segmentWired s.config k →
    s.line (segmentPin s.config k) ≠ .unwritten

/-- The wired common lines hold the one-hot code of digit `a` in the configured polarity (R161). -/
def State.oneHot (s : State) (a : Nat) : Prop :=
  ∀ i, i < s.config.displaysCount → commonWired s.config i →
    s.line (commonPin s.config i) = .driven (comLevel s.config (decide (i = a)))

/-- The level of a pin where `free` gives the levels that are unknown (U2: a claim holds for every `free`): the line is
unwritten, or no `BEGIN` was performed, so that the pin was never configured (R233). -/
def State.pinLevel (free : PinId → Level) (s : State) (p : PinId) : Level :=
  if s.boot = .begun then
    match s.line p with
    | .driven l => l
    | .unwritten => free p
  else free p

/-- Physical digit `i` shows segment `k` (R36): its common line and the segment line are both active. -/
def State.shows (free : PinId → Level) (s : State) (i k : Nat) : Prop :=
  s.pinLevel free (commonPin s.config i) = s.config.commonActiveLevel ∧
  s.pinLevel free (segmentPin s.config k) = s.config.segmentActiveLevel

/-! ## Instructions and runs -/

/-- The eight commands of 41_buffer_ops.md. -/
def isBufferCommand : Instr → Bool
  | .clear | .home | .setcursor _ | .write _ | .setdp _ _ | .blinkdigit _ | .noblinkdigit _ | .noblink => true
  | .begin | .display | .nodisplay | .setblinkinterval _ | .refresh => false

/-- The words of opcode `op` decode to the instruction `i` makes of the operand half. -/
def opcodeSelects (op : Byte) (i : BitVec 16 → Instr) : Prop :=
  ∀ operand : BitVec 16, decodeWord (op ++ operand) = .ok (i operand)

/-- The answer with its next state changed by `f`. -/
def mapNext (f : State → State) : Answer → Answer
  | .next t => .next (f t)
  | .fault r => .fault r
  | .refused r => .refused r

/-- `s` when the host presents `ps` on the input ports in the steps to come, before what it presents anyway. -/
def State.presenting (s : State) (ps : List Ports) : State := s.withPending (ps ++ s.pending)

/-- One refresh tick for each wall-clock value of `nows`, and no command. -/
def ticks (nows : List Word32) : List Ports := nows.map tickPorts

end Sys2Proof.Machine
end

