-- ==== Sys2Proof/Certificates/Slice0/Obligations.lean ====
section
/-! DEFINITION. The statements for the provers. Each docstring names the rule of spec/ it formalises. The premise
`s.config.valid = true` is 00_scope.md R7: the rules give a meaning to valid configurations only, and
`InvalidConfigurationHasNoStep` says what happens in the others. A statement about every state holds in states no
run reaches; where it could fail only there, its premise is `State.Inv` or `State.LinesKnown`, which have
statements of their own (`InvariantKeptByEveryStep`, `LinesKnownKeptByEveryStep`). -/

open Sys2Proof Sys2Proof.Machine

/-! ## The command word -/

/-- 30_encoding.md section 6: the worked encodings, read and written (the spec derives them from R91 to R96). -/
def Obligations.WorkedEncodings : Prop :=
  (encode .begin = 0x010000#24 ∧ decodeWord 0x010000#24 = .ok .begin) ∧
  (encode (.setcursor 3) = 0x040003#24 ∧ decodeWord 0x040003#24 = .ok (.setcursor 3)) ∧
  (encode (.write 0x41) = 0x050041#24 ∧ decodeWord 0x050041#24 = .ok (.write 0x41)) ∧
  (encode (.write 0x37) = 0x050037#24 ∧ decodeWord 0x050037#24 = .ok (.write 0x37)) ∧
  (encode (.setdp 1 true) = 0x060101#24 ∧ decodeWord 0x060101#24 = .ok (.setdp 1 true)) ∧
  (encode (.setdp 1 false) = 0x060001#24 ∧ decodeWord 0x060001#24 = .ok (.setdp 1 false)) ∧
  (encode (.blinkdigit 2) = 0x070002#24 ∧ decodeWord 0x070002#24 = .ok (.blinkdigit 2)) ∧
  (encode (.setblinkinterval 300) = 0x0C012C#24 ∧ decodeWord 0x0C012C#24 = .ok (.setblinkinterval 300)) ∧
  (encode .refresh = 0x0D0000#24 ∧ decodeWord 0x0D0000#24 = .ok .refresh)

/-- R92 (the opcodes are the spec's decision D4), with the operand fields of R93, R95 and R96: a word selects a row
exactly when it matches under the mask `0xFF0000`, and the operands are the fields of the row. -/
def Obligations.OpcodeMapSelectsTheRow : Prop :=
  ∀ w : CommandWord,
    (w &&& 0xFF0000#24 = 0x010000#24 ↔ decodeWord w = .ok .begin) ∧
    (w &&& 0xFF0000#24 = 0x020000#24 ↔ decodeWord w = .ok .clear) ∧
    (w &&& 0xFF0000#24 = 0x030000#24 ↔ decodeWord w = .ok .home) ∧
    (w &&& 0xFF0000#24 = 0x040000#24 ↔ decodeWord w = .ok (.setcursor (w.extractLsb' 0 8))) ∧
    (w &&& 0xFF0000#24 = 0x050000#24 ↔ decodeWord w = .ok (.write (w.extractLsb' 0 8))) ∧
    (w &&& 0xFF0000#24 = 0x060000#24 ↔ decodeWord w = .ok (.setdp (w.extractLsb' 0 8) (w.getLsbD 8))) ∧
    (w &&& 0xFF0000#24 = 0x070000#24 ↔ decodeWord w = .ok (.blinkdigit (w.extractLsb' 0 8))) ∧
    (w &&& 0xFF0000#24 = 0x080000#24 ↔ decodeWord w = .ok (.noblinkdigit (w.extractLsb' 0 8))) ∧
    (w &&& 0xFF0000#24 = 0x090000#24 ↔ decodeWord w = .ok .noblink) ∧
    (w &&& 0xFF0000#24 = 0x0A0000#24 ↔ decodeWord w = .ok .display) ∧
    (w &&& 0xFF0000#24 = 0x0B0000#24 ↔ decodeWord w = .ok .nodisplay) ∧
    (w &&& 0xFF0000#24 = 0x0C0000#24 ↔ decodeWord w = .ok (.setblinkinterval (w.extractLsb' 0 16))) ∧
    (w &&& 0xFF0000#24 = 0x0D0000#24 ↔ decodeWord w = .ok .refresh)

/-- Decode and encode agree on every instruction, at every value of every operand (30_encoding.md sections 2, 3). -/
def Obligations.DecodeOfEncode : Prop :=
  ∀ i : Instr, i.wellFormed = true → decodeWord (encode i) = .ok i

/-- R98 (the spec's decision D5): two words of one operation that differ only in operand bits without a field decode
to one instruction, have one behaviour in every state, and the assembler's word has those bits 0. -/
def Obligations.OperandBitsWithoutFieldIgnored : Prop :=
  ∀ (w v : CommandWord) (i : Instr), decodeWord w = .ok i →
    v &&& (0xFF#8 ++ i.fieldMask) = w &&& (0xFF#8 ++ i.fieldMask) →
      decodeWord v = .ok i ∧ (∀ s, performCommand v s = performCommand w s) ∧
      encode i = w &&& (0xFF#8 ++ i.fieldMask)

/-- R97, R206 (the spec's decision D5): the words of opcode 0x00 and 0x0E to 0xFF, and only they, are reserved; a step
that performs one changes no state, makes no GPIO call and answers 0. -/
def Obligations.ReservedOpcodeIsNoop : Prop :=
  ∀ (w : CommandWord) (s : State), s.config.valid = true →
    ((w.extractLsb' 16 8 = 0x00#8 ∨ 0x0E ≤ (w.extractLsb' 16 8).toNat) ↔ ∃ e, decodeWord w = .error e) ∧
    ((w.extractLsb' 16 8 = 0x00#8 ∨ 0x0E ≤ (w.extractLsb' 16 8).toNat) →
      step (s.presenting [commandPorts s.ports w]) =
        .next { s with ports := commandPorts s.ports w, resp := false, trace := [] })

/-- 20_memory.md section 4: on a byte-wide channel a command word is its opcode byte, `operand[15:8]`, `operand[7:0]`,
in that order, and is read back with the bytes after it; fewer than three bytes are no command. -/
def Obligations.SerialisedWordReadBack : Prop :=
  (∀ (i : Instr) (rest : List Byte),
    encodeBytes i = [(encode i).extractLsb' 16 8, (encode i).extractLsb' 8 8, (encode i).extractLsb' 0 8] ∧
    decodeBytes (encodeBytes i ++ rest) = .ok (i, rest)) ∧
  (∀ bs : List Byte, bs.length < 3 → decodeBytes bs = .error .truncated)

/-- 30_encoding.md section 6: an instruction written as a line of assembler text is read back as itself. -/
def Obligations.AssemblerReadsWhatItWrites : Prop :=
  ∀ i : Instr, assembleLine (renderLine i) = .ok (.command i)

/-! ## The glyph encoder -/

/-- R120: `encode` range by range, total over the 256 characters, with the counts of its corner cases. -/
def Obligations.EncodeContract : Prop :=
  (∀ ch : Byte,
    (0x30 ≤ ch.toNat ∧ ch.toNat ≤ 0x39 → (encodeChar ch).toNat = ch.toNat - 0x30) ∧
    (0x41 ≤ ch.toNat ∧ ch.toNat ≤ 0x46 → (encodeChar ch).toNat = ch.toNat - 0x41 + 10) ∧
    (0x61 ≤ ch.toNat ∧ ch.toNat ≤ 0x66 → (encodeChar ch).toNat = ch.toNat - 0x61 + 10) ∧
    (ch.toNat = 0x20 → (encodeChar ch).toNat = 16) ∧
    (¬ (0x30 ≤ ch.toNat ∧ ch.toNat ≤ 0x39) ∧ ¬ (0x41 ≤ ch.toNat ∧ ch.toNat ≤ 0x46) ∧
      ¬ (0x61 ≤ ch.toNat ∧ ch.toNat ≤ 0x66) ∧ ch.toNat ≠ 0x20 → (encodeChar ch).toNat = 17)) ∧
  (List.range 256).countP (fun n => (encodeChar (BitVec.ofNat 8 n)).toNat != 17) = 23 ∧
  (List.range 256).countP (fun n => (encodeChar (BitVec.ofNat 8 n)).toNat == 17) = 233

/-- 40_glyph_encoder.md section 3, the source's testable properties: the letters are encoded alike in both cases,
every character has a row of the table, only the space is blank, and two composed values of the default table. -/
def Obligations.EncoderProperties : Prop :=
  (∀ ch : Byte, (0x41 ≤ ch.toNat ∧ ch.toNat ≤ 0x46) → encodeChar ch = encodeChar (ch + 0x20)) ∧
  (∀ ch : Byte, (encodeChar ch).toNat ≤ 17 ∧ ∃ g, glyphRow (encodeChar ch) = some g) ∧
  (∀ ch : Byte, (encodeChar ch).toNat = 16 ↔ ch.toNat = 0x20) ∧
  (∀ c : Config, c.glyphMask = defaultGlyphMask →
    (glyphRow (encodeChar 0x37)).map c.segmentMaskOf = some 0x07#8 ∧
    (glyphRow (encodeChar 0x78)).map c.segmentMaskOf = some 0x40#8)

/-! ## Construction -/

/-- R6 (the spec's decision D18): the timebase and the effective tick period, which is never zero and is unused in
wall-clock mode; both are fixed, no step writing the configuration. -/
def Obligations.TimebaseAndTickPeriod : Prop :=
  ∀ c : Config, c.valid = true →
    (∀ tb, c.timebaseGiven = some tb → c.timebase = tb) ∧
    (c.timebaseGiven = none →
      (c.refreshPeriodMicros = 0 → c.timebase = .wallClock) ∧
      (c.refreshPeriodMicros ≠ 0 → c.timebase = .tickCount)) ∧
    (c.refreshPeriodMicros ≠ 0 → c.tickPeriodEff = c.refreshPeriodMicros) ∧
    (c.refreshPeriodMicros = 0 → c.tickPeriodEff = c.defaultTickPeriodMicros) ∧
    c.tickPeriodEff ≠ 0 ∧
    (c.timebase = .wallClock → ∀ ms, (c.intervalOf ms).toNat = ms.toNat) ∧
    (∀ s t : State, s.config = c → step s = .next t → t.config = c)

/-- 10_state.md section 8: the value of every piece of state after construction. The values of `dp`, `blink`,
`cursor`, `activeDigit`, `blinkOff` and `blinkTimer` are the spec's own decision D13 ("Every value marked "no" is this
spec's own choice"), assumption 4. `boot` is the model's own history (assumption 23). -/
def Obligations.ConstructionValues : Prop :=
  ∀ c : Config, c.valid = true → ∃ s, State.construct c = some s ∧
    (∀ i, Memory.glyph s.memory i = 16#5 ∧ Memory.dp s.memory i = false ∧ Memory.blink s.memory i = false) ∧
    s.cursor = 0 ∧ s.activeDigit = 0 ∧ s.enabled = false ∧ s.blinkOff = false ∧ s.blinkTimer = 0 ∧
    (c.timebase = .wallClock → s.blinkInterval.toNat = 300) ∧
    (c.timebase = .tickCount → s.blinkInterval.toNat = 300 * 1000 / c.tickPeriodEff.toNat) ∧
    (∀ p, s.line p = .unwritten) ∧ s.boot = .fresh ∧ s.config = c

/-- 00_scope.md section 4, 93_implementation_defined.md U3: a state is constructed exactly from the configurations the
spec calls valid (the last clause is the non-zero substitute period of U4), and in a state with any other
configuration no step and no instruction has an effect. -/
def Obligations.InvalidConfigurationHasNoStep : Prop :=
  (∀ c : Config, (∃ s, State.construct c = some s) ↔
    (1 ≤ c.displaysCount ∧ c.displaysCount ≤ 16 ∧ c.commonDriverPins.length = c.displaysCount ∧
      c.segmentPins.length = 8 ∧
      (∀ i j (hi : i < (c.segmentPins ++ c.commonDriverPins).length)
        (hj : j < (c.segmentPins ++ c.commonDriverPins).length), i ≠ j →
        (c.segmentPins ++ c.commonDriverPins)[i] ≠ unusedPin →
        (c.segmentPins ++ c.commonDriverPins)[i] ≠ (c.segmentPins ++ c.commonDriverPins)[j]) ∧
      c.defaultTickPeriodMicros ≠ 0)) ∧
  (∀ s : State, State.construct s.config = none →
    step s = .refused .invalidConfiguration ∧ ∀ i, exec i s = .refused .invalidConfiguration)

/-! ## The display buffer and its commands -/

/-- 20_memory.md section 3: the packed view of a slot, field by field, what a whole-slot write stores, and the read
ports; a write to one slot leaves every other slot as it was. That a byte with a glyph code above 17, whose write is
not legal, is stored as it is, is the model's choice (assumption 24). -/
def Obligations.PackedSlotView : Prop :=
  ∀ (m : Memory), Memory.wf m = true →
    (∀ i, (Memory.read m i)[7] = Memory.dp m i ∧ (Memory.read m i)[6] = Memory.blink m i ∧
      (Memory.read m i)[5] = false ∧ (Memory.read m i).extractLsb' 0 5 = Memory.glyph m i) ∧
    (∀ i (v : Byte), Memory.dp (Memory.write m i v) i = v[7] ∧ Memory.blink (Memory.write m i v) i = v[6] ∧
      Memory.glyph (Memory.write m i v) i = v.extractLsb' 0 5 ∧ (Memory.read (Memory.write m i v) i)[5] = false) ∧
    (∀ i j (v : Byte), j ≠ i → Memory.read (Memory.write m i v) j = Memory.read m j) ∧
    (∀ s : State, s.memory = m → s.rdData = Memory.read m s.ports.rdAddr ∧ s.stCursor = s.cursor ∧
      s.stEnabled = s.enabled)

/-- R130 (points cleared: the spec's decision D9): `CLEAR` blanks all sixteen slots and their flags, sets the cursor
to 0, answers 0, changes nothing else. -/
def Obligations.ClearBlanksBuffer : Prop :=
  opcodeSelects 0x02#8 (fun _ => .clear) ∧
  ∀ s : State, s.config.valid = true → ∃ t, exec .clear s = .next t ∧
    (∀ i, Memory.read t.memory i = 0x10#8 ∧ Memory.glyph t.memory i = 16#5 ∧ Memory.dp t.memory i = false ∧
      Memory.blink t.memory i = false) ∧
    t = { s with memory := t.memory, cursor := 0, resp := false }

/-- R131: `HOME` sets the cursor to 0, answers 0, changes nothing else. -/
def Obligations.HomeResetsCursorOnly : Prop :=
  opcodeSelects 0x03#8 (fun _ => .home) ∧
  ∀ s : State, s.config.valid = true → exec .home s = .next { s with cursor := 0, resp := false }

/-- R132: `SETCURSOR pos` sets the cursor to `min(pos, 16)`, answers 0, changes nothing else. -/
def Obligations.SetcursorClamps : Prop :=
  opcodeSelects 0x04#8 (fun x => .setcursor (x.extractLsb' 0 8)) ∧
  ∀ (s : State) (pos : Byte), s.config.valid = true → ∃ t, exec (.setcursor pos) s = .next t ∧
    t.cursor.toNat = min pos.toNat 16 ∧ t = { s with cursor := t.cursor, resp := false }

/-- R133 (the blink flag kept: the spec's decision D12), R202: at capacity `WRITE` answers 0 and changes nothing else;
below it, it stores the encoded glyph in the slot of the cursor, keeps that slot's two flags and every other slot,
advances the cursor by one and answers 1. -/
def Obligations.WriteStoresAtCursor : Prop :=
  opcodeSelects 0x05#8 (fun x => .write (x.extractLsb' 0 8)) ∧
  ∀ (s : State) (ch : Byte), s.config.valid = true →
    (16 ≤ s.cursor.toNat → exec (.write ch) s = .next { s with resp := false }) ∧
    (s.cursor.toNat < 16 → ∃ t, exec (.write ch) s = .next t ∧
      (∀ j : SlotIndex, j.toNat = s.cursor.toNat → Memory.glyph t.memory j = encodeChar ch) ∧
      (∀ j, Memory.dp t.memory j = Memory.dp s.memory j ∧ Memory.blink t.memory j = Memory.blink s.memory j) ∧
      (∀ j : SlotIndex, j.toNat ≠ s.cursor.toNat → Memory.read t.memory j = Memory.read s.memory j) ∧
      t.cursor.toNat = s.cursor.toNat + 1 ∧
      t = { s with memory := t.memory, cursor := t.cursor, resp := true })

/-- R134 (the bound 16 is the spec's decision D8): `SETDP digit, on` stores `on` in the decimal-point flag of a slot
below 16 and nothing else; it answers 0. -/
def Obligations.SetdpSetsPointOnly : Prop :=
  opcodeSelects 0x06#8 (fun x => .setdp (x.extractLsb' 0 8) (x.getLsbD 8)) ∧
  ∀ (s : State) (digit : Byte) (on : Bool), s.config.valid = true →
    (16 ≤ digit.toNat → exec (.setdp digit on) s = .next { s with resp := false }) ∧
    (digit.toNat < 16 → ∃ t, exec (.setdp digit on) s = .next t ∧
      (∀ j : SlotIndex, j.toNat = digit.toNat → Memory.dp t.memory j = on) ∧
      (∀ j, Memory.glyph t.memory j = Memory.glyph s.memory j ∧ Memory.blink t.memory j = Memory.blink s.memory j) ∧
      (∀ j : SlotIndex, j.toNat ≠ digit.toNat → Memory.read t.memory j = Memory.read s.memory j) ∧
      t = { s with memory := t.memory, resp := false })

/-- R135 (the bound 16 is the spec's decision D8): `BLINKDIGIT digit` sets the blink flag of a slot below 16 and
nothing else; it answers 0. -/
def Obligations.BlinkdigitSetsFlagOnly : Prop :=
  opcodeSelects 0x07#8 (fun x => .blinkdigit (x.extractLsb' 0 8)) ∧
  ∀ (s : State) (digit : Byte), s.config.valid = true →
    (16 ≤ digit.toNat → exec (.blinkdigit digit) s = .next { s with resp := false }) ∧
    (digit.toNat < 16 → ∃ t, exec (.blinkdigit digit) s = .next t ∧
      (∀ j : SlotIndex, j.toNat = digit.toNat → Memory.blink t.memory j = true) ∧
      (∀ j, Memory.glyph t.memory j = Memory.glyph s.memory j ∧ Memory.dp t.memory j = Memory.dp s.memory j) ∧
      (∀ j : SlotIndex, j.toNat ≠ digit.toNat → Memory.read t.memory j = Memory.read s.memory j) ∧
      t = { s with memory := t.memory, resp := false })

/-- R136 (the bound 16 is the spec's decision D8): `NOBLINKDIGIT digit` clears the blink flag of a slot below 16 and
nothing else; it answers 0. -/
def Obligations.NoblinkdigitClearsFlagOnly : Prop :=
  opcodeSelects 0x08#8 (fun x => .noblinkdigit (x.extractLsb' 0 8)) ∧
  ∀ (s : State) (digit : Byte), s.config.valid = true →
    (16 ≤ digit.toNat → exec (.noblinkdigit digit) s = .next { s with resp := false }) ∧
    (digit.toNat < 16 → ∃ t, exec (.noblinkdigit digit) s = .next t ∧
      (∀ j : SlotIndex, j.toNat = digit.toNat → Memory.blink t.memory j = false) ∧
      (∀ j, Memory.glyph t.memory j = Memory.glyph s.memory j ∧ Memory.dp t.memory j = Memory.dp s.memory j) ∧
      (∀ j : SlotIndex, j.toNat ≠ digit.toNat → Memory.read t.memory j = Memory.read s.memory j) ∧
      t = { s with memory := t.memory, resp := false })

/-- R137: `NOBLINK` clears the blink flag of all sixteen slots and nothing else; it answers 0. -/
def Obligations.NoblinkClearsEveryFlag : Prop :=
  opcodeSelects 0x09#8 (fun _ => .noblink) ∧
  ∀ s : State, s.config.valid = true → ∃ t, exec .noblink s = .next t ∧
    (∀ j, Memory.blink t.memory j = false ∧ Memory.glyph t.memory j = Memory.glyph s.memory j ∧
      Memory.dp t.memory j = Memory.dp s.memory j) ∧
    t = { s with memory := t.memory, resp := false }

/-- R201: a digit index of 16 or more changes no state; only the answer 0 is given. -/
def Obligations.OutOfRangeDigitIgnored : Prop :=
  ∀ (s : State) (digit : Byte) (on : Bool), s.config.valid = true → 16 ≤ digit.toNat →
    ∀ i ∈ [Instr.setdp digit on, Instr.blinkdigit digit, Instr.noblinkdigit digit],
      exec i s = .next { s with resp := false }

/-- R138: each of the eight buffer commands runs, writes only the buffer, the cursor and the answer, makes no GPIO
call, and does the same whether the scheduler is enabled or not. -/
def Obligations.BufferCommandsTouchNoPin : Prop :=
  ∀ (i : Instr) (s : State), isBufferCommand i = true → s.config.valid = true → ∃ t, exec i s = .next t ∧
    t = { s with memory := t.memory, cursor := t.cursor, resp := t.resp } ∧
    ∀ b, exec i { s with enabled := b } = .next { t with enabled := b }

/-- R140 (the spec's decision D10): `'.'` is an ordinary character, and the decimal point of a slot changes only by
`SETDP`, to the operand, and by `CLEAR` and `BEGIN`, to 0. -/
def Obligations.PointIsAnOrdinaryCharacter : Prop :=
  (∀ s : State, s.config.valid = true → s.cursor.toNat < 16 → ∃ t, exec (.write 0x2E) s = .next t ∧
    (∀ j : SlotIndex, j.toNat = s.cursor.toNat → Memory.glyph t.memory j = 17#5) ∧
    t.cursor.toNat = s.cursor.toNat + 1 ∧ t.resp = true) ∧
  (∀ (i : Instr) (s t : State) (j : SlotIndex), exec i s = .next t →
    Memory.dp t.memory j ≠ Memory.dp s.memory j →
      (∃ digit on, i = .setdp digit on ∧ digit.toNat = j.toNat ∧ Memory.dp t.memory j = on) ∨
      ((i = .clear ∨ i = .begin) ∧ Memory.dp t.memory j = false))

/-- 20_memory.md section 5: every store is idempotent. A command that stores to the buffer, the cursor (but for the
post-increment of `WRITE`), the enabled flag or the interval, performed again on what it left, leaves the same state.
-/
def Obligations.StoresAreIdempotent : Prop :=
  ∀ (i : Instr) (s t : State), s.Inv → (∀ ch, i ≠ .write ch) → i ≠ .begin → i ≠ .nodisplay → i ≠ .refresh →
    exec i s = .next t → exec i t = .next t

/-- 30_encoding.md section 6: `WRITESTR` consumes as many characters as there are slots from the cursor on, its
response is their number, character `k` is encoded in slot `cursor + k`, and every other slot is as it was. -/
def Obligations.WritestrFillsFromCursor : Prop :=
  ∀ (cs : List Byte) (s : State), s.config.valid = true → s.cursor.toNat ≤ 16 →
    expandWritestr cs = cs.map Instr.write ∧
    ∃ t n, runWritestr cs s = .next (t, n) ∧ n = min cs.length (16 - s.cursor.toNat) ∧
      t.cursor.toNat = s.cursor.toNat + n ∧
      (∀ (k : Nat) (hk : k < cs.length), k < n →
        Memory.glyph t.memory (BitVec.ofNat 4 (s.cursor.toNat + k)) = encodeChar cs[k]) ∧
      (∀ j : SlotIndex, (j.toNat < s.cursor.toNat ∨ s.cursor.toNat + n ≤ j.toNat) →
        Memory.read t.memory j = Memory.read s.memory j) ∧
      t = { s with memory := t.memory, cursor := t.cursor, resp := t.resp }

/-! ## The scheduler -/

/-- R151 (the order is the spec's decision D21): the shutdown writes the inactive level to commons 0 to N-1 and then
segments 0 to 7, skipping unused pins (N + 8 calls when every pin is wired); after it every wired line is inactive; it
writes only line latches. -/
def Obligations.ShutdownDrivesAllInactive : Prop :=
  ∀ s : State, s.config.valid = true →
    (shutdown s).trace = s.trace ++ writeCalls
      (s.config.commonDriverPins.map (fun p => (p, !s.config.commonActiveLevel)) ++
       s.config.segmentPins.map (fun p => (p, !s.config.segmentActiveLevel))) ∧
    ((∀ p ∈ s.config.segmentPins ++ s.config.commonDriverPins, p ≠ unusedPin) →
      (shutdown s).trace.length = s.trace.length + s.config.displaysCount + 8) ∧
    (shutdown s).allInactive ∧
    (∀ p, p ∉ s.config.wiredPins → (shutdown s).line p = s.line p) ∧
    shutdown s = { s with lines := (shutdown s).lines, trace := (shutdown s).trace }

/-- R152 (the order is the spec's decision D20): `BEGIN` configures the wired pins (segments, then commons), shuts
down, blanks the buffer, sets the cursor to 0 and enables; it answers 0 and writes nothing else. (`boot` is no state
of the spec but the history the model keeps, assumption 23.) -/
def Obligations.BeginConfiguresClearsEnables : Prop :=
  opcodeSelects 0x01#8 (fun _ => .begin) ∧
  ∀ s : State, s.config.valid = true → ∃ t, exec .begin s = .next t ∧
    t.trace = s.trace ++ configCalls (s.config.segmentPins ++ s.config.commonDriverPins) ++ writeCalls
      (s.config.commonDriverPins.map (fun p => (p, !s.config.commonActiveLevel)) ++
       s.config.segmentPins.map (fun p => (p, !s.config.segmentActiveLevel))) ∧
    t.allInactive ∧ (∀ p, p ∉ s.config.wiredPins → t.line p = s.line p) ∧
    (∀ i, Memory.read t.memory i = 0x10#8) ∧
    t = { s with memory := t.memory, cursor := 0, enabled := true, lines := t.lines, boot := .begun, resp := false,
                 trace := t.trace }

/-- R153: `DISPLAY` sets the enabled flag, answers 0, changes nothing else and makes no GPIO call. -/
def Obligations.DisplaySetsEnabledOnly : Prop :=
  opcodeSelects 0x0A#8 (fun _ => .display) ∧
  ∀ s : State, s.config.valid = true → exec .display s = .next { s with enabled := true, resp := false }

/-- R154 (in either state: the spec's decision D23): `NODISPLAY` shuts down in either state, sets the active digit to
0, disables, answers 0, and touches neither the buffer nor the cursor nor the blink phase, interval and timer; the
refresh steps after it do nothing. (`boot` is no state of the spec but the history the model keeps, assumption 23.) -/
def Obligations.NodisplayShutsDown : Prop :=
  opcodeSelects 0x0B#8 (fun _ => .nodisplay) ∧
  ∀ s : State, s.config.valid = true → ∃ t, exec .nodisplay s = .next t ∧
    t.trace = s.trace ++ writeCalls
      (s.config.commonDriverPins.map (fun p => (p, !s.config.commonActiveLevel)) ++
       s.config.segmentPins.map (fun p => (p, !s.config.segmentActiveLevel))) ∧
    t.allInactive ∧ (∀ p, p ∉ s.config.wiredPins → t.line p = s.line p) ∧
    t = { s with activeDigit := 0, enabled := false, lines := t.lines, boot := t.boot, resp := false,
                 trace := t.trace } ∧
    t.boot ≠ .fresh ∧ (t.boot = .begun ↔ s.boot = .begun) ∧
    exec .refresh t = .next t

/-- R162: `REFRESH` while disabled makes no GPIO call and changes no state. -/
def Obligations.RefreshWhileDisabledIsNoop : Prop :=
  ∀ s : State, s.config.valid = true → s.enabled = false → exec .refresh s = .next { s with resp := false }

/-- R155, R157: an enabled refresh of digit `a`. The blink timer is updated first (what the update does is
`WallClockBlinkUpdate` and `TickCountBlinkUpdate`). The calls are, in this order, the previous digit's common line
off, segment lines 0 to 6 from the effective glyph's mask and line 7 from the decimal-point flag, the common line of
`a` on; the phase that selects the effective glyph is the one this refresh leaves; the index advances. The buffer, the
cursor, the enabled flag, the interval and the latches of all other pins are as before. -/
def Obligations.RefreshLightsTheActiveDigit : Prop :=
  opcodeSelects 0x0D#8 (fun _ => .refresh) ∧
  ∀ s : State, s.config.valid = true → s.enabled = true → s.activeDigit.toNat < s.config.displaysCount →
    (Memory.glyph s.memory s.activeDigit).toNat ≤ 17 →
    ∃ (t : State) (g : Fin 18), exec .refresh s = .next t ∧
      g.val = (if Memory.blink s.memory s.activeDigit = true ∧ t.blinkOff = true then 16
        else (Memory.glyph s.memory s.activeDigit).toNat) ∧
      t.blinkOff = (blinkUpdate s).blinkOff ∧ t.blinkTimer = (blinkUpdate s).blinkTimer ∧
      t.trace = s.trace ++ writeCalls
        ((commonPin s.config (if s.activeDigit.toNat = 0 then s.config.displaysCount - 1 else s.activeDigit.toNat - 1),
            !s.config.commonActiveLevel) ::
          ([0, 1, 2, 3, 4, 5, 6].map
              (fun k => (segmentPin s.config k, segLevel s.config (s.config.glyphMask[g].getLsbD k))) ++
           [(segmentPin s.config 7, segLevel s.config (Memory.dp s.memory s.activeDigit)),
            (commonPin s.config s.activeDigit.toNat, s.config.commonActiveLevel)])) ∧
      (∀ k, k < 7 → segmentWired s.config k →
        t.line (segmentPin s.config k) = .driven (segLevel s.config (s.config.glyphMask[g].getLsbD k))) ∧
      (segmentWired s.config 7 →
        t.line (segmentPin s.config 7) = .driven (segLevel s.config (Memory.dp s.memory s.activeDigit))) ∧
      (commonWired s.config s.activeDigit.toNat → t.commonAsserted s.activeDigit.toNat) ∧
      (∀ i, i < s.config.displaysCount → i ≠ s.activeDigit.toNat → commonWired s.config i →
        (i = (if s.activeDigit.toNat = 0 then s.config.displaysCount - 1 else s.activeDigit.toNat - 1) →
          t.commonInactive i) ∧
        (i ≠ (if s.activeDigit.toNat = 0 then s.config.displaysCount - 1 else s.activeDigit.toNat - 1) →
          t.line (commonPin s.config i) = s.line (commonPin s.config i))) ∧
      (∀ p, p ∉ s.config.wiredPins → t.line p = s.line p) ∧
      t.activeDigit.toNat = (s.activeDigit.toNat + 1) % s.config.displaysCount ∧
      t = { s with activeDigit := t.activeDigit, blinkOff := t.blinkOff, blinkTimer := t.blinkTimer,
                   lines := t.lines, resp := false, trace := t.trace }

/-- 42_mux_scheduler.md section 5 (derived there): with one digit, every enabled refresh turns its common line off,
writes the eight segment lines, turns it on again and leaves the index at 0. -/
def Obligations.SingleDigitRefresh : Prop :=
  ∀ s : State, s.config.valid = true → s.enabled = true → s.config.displaysCount = 1 → s.activeDigit = 0 →
    (Memory.glyph s.memory 0).toNat ≤ 17 →
    ∃ (t : State) (levels : List Level), exec .refresh s = .next t ∧ levels.length = 8 ∧
      t.trace = s.trace ++ writeCalls
        ((commonPin s.config 0, !s.config.commonActiveLevel) ::
          ((s.config.segmentPins.zip levels) ++ [(commonPin s.config 0, s.config.commonActiveLevel)])) ∧
      t.activeDigit = 0

/-- 93_implementation_defined.md U1, 40_glyph_encoder.md section 2: where an enabled refresh would read the glyph
table outside its eighteen rows, it is refused by name, with no mask invented; it stops there and, in a valid
configuration with an existing active digit, nowhere else. -/
def Obligations.GlyphBeyondTableRefused : Prop :=
  ∀ s : State, s.config.valid = true → s.enabled = true → s.activeDigit.toNat < s.config.displaysCount →
    ((∃ r, exec .refresh s = .refused r) ↔
      (18 ≤ (Memory.glyph s.memory s.activeDigit).toNat ∧
        ¬ (Memory.blink s.memory s.activeDigit = true ∧ (blinkUpdate s).blinkOff = true))) ∧
    (∀ r, exec .refresh s = .refused r → r = .glyphCodeOutOfRange)

/-- R204: the sentinel is never passed to the GPIO collaborator: no call of any step names it, and every call names a
pin of the configuration. -/
def Obligations.SentinelNeverPassed : Prop :=
  ∀ (s t : State), step s = .next t → ∀ call ∈ t.trace,
    call.pin ≠ unusedPin ∧ call.pin ∈ s.config.segmentPins ++ s.config.commonDriverPins

/-! ## The blink timer -/

/-- R183, R184 (truncation is the spec's decision D16, the timer kept its D19): `SETBLINKINTERVAL ms` stores `ms` in
wall-clock mode and `floor(ms * 1000 / tickPeriodEff)` in tick-count mode, with no overflow, answers 0, and changes
nothing else. -/
def Obligations.SetblinkintervalConverts : Prop :=
  opcodeSelects 0x0C#8 (fun x => .setblinkinterval x) ∧
  ∀ (s : State) (ms : BitVec 16), s.config.valid = true → ∃ t, exec (.setblinkinterval ms) s = .next t ∧
    (s.config.timebase = .wallClock → t.blinkInterval.toNat = ms.toNat) ∧
    (s.config.timebase = .tickCount → t.blinkInterval.toNat = ms.toNat * 1000 / s.config.tickPeriodEff.toNat) ∧
    ms.toNat * 1000 < 2 ^ 32 ∧ 1 ≤ s.config.tickPeriodEff.toNat ∧
    t = { s with blinkInterval := t.blinkInterval, resp := false }

/-- R181 (32 bits, modular: the spec's decision D15): in wall-clock mode an enabled refresh toggles the phase and
records `now` exactly when `(now - blinkTimer) mod 2^32 >= blinkInterval`. -/
def Obligations.WallClockBlinkUpdate : Prop :=
  ∀ s : State, s.config.valid = true → s.enabled = true → s.activeDigit.toNat < s.config.displaysCount →
    (Memory.glyph s.memory s.activeDigit).toNat ≤ 17 → s.config.timebase = .wallClock →
    ∃ t, exec .refresh s = .next t ∧
      (s.blinkInterval.toNat ≤ (s.ports.now.toNat + 2 ^ 32 - s.blinkTimer.toNat) % 2 ^ 32 →
        t.blinkOff = !s.blinkOff ∧ t.blinkTimer = s.ports.now) ∧
      ((s.ports.now.toNat + 2 ^ 32 - s.blinkTimer.toNat) % 2 ^ 32 < s.blinkInterval.toNat →
        t.blinkOff = s.blinkOff ∧ t.blinkTimer = s.blinkTimer)

/-- R182 (`>=`: the spec's decision D17): in tick-count mode an enabled refresh counts one, and where the count
reaches the interval resets it and toggles the phase; the count stays below `max(blinkInterval, 1)`, and `now` is
ignored. -/
def Obligations.TickCountBlinkUpdate : Prop :=
  ∀ s : State, s.Inv → s.enabled = true → s.config.timebase = .tickCount →
    ∃ t, exec .refresh s = .next t ∧
      (s.blinkInterval.toNat ≤ s.blinkTimer.toNat + 1 → t.blinkOff = !s.blinkOff ∧ t.blinkTimer = 0) ∧
      (s.blinkTimer.toNat + 1 < s.blinkInterval.toNat →
        t.blinkOff = s.blinkOff ∧ t.blinkTimer.toNat = s.blinkTimer.toNat + 1) ∧
      t.blinkTimer.toNat < max s.blinkInterval.toNat 1 ∧
      ∀ now, exec .refresh { s with ports := { s.ports with now := now } } =
        .next { t with ports := { s.ports with now := now } }

/-- 43_blink_timer.md section 5: with a zero interval, and in tick-count mode with an interval of 1 as well, every
enabled refresh toggles the phase. -/
def Obligations.ZeroIntervalTogglesEveryRefresh : Prop :=
  ∀ s : State, s.Inv → s.enabled = true →
    (s.blinkInterval = 0 ∨ (s.config.timebase = .tickCount ∧ s.blinkInterval = 1)) →
    ∃ t, exec .refresh s = .next t ∧ t.blinkOff = !s.blinkOff ∧
      (s.config.timebase = .wallClock → t.blinkTimer = s.ports.now) ∧
      (s.config.timebase = .tickCount → t.blinkTimer = 0)

/-- 43_blink_timer.md section 5: the phase and the timer change in an enabled refresh and nowhere else. -/
def Obligations.TimerStandsStill : Prop :=
  ∀ (i : Instr) (s t : State), exec i s = .next t → (i ≠ .refresh ∨ s.enabled = false) →
    t.blinkOff = s.blinkOff ∧ t.blinkTimer = s.blinkTimer

/-- 43_blink_timer.md section 3: in tick-count mode with a constant interval `T` (an interval of 0 acts as 1), `n`
refresh ticks leave the counter at `(blinkTimer + n) mod T` and toggle the phase once for every multiple of `T`
reached. -/
def Obligations.TickCountTogglesEveryInterval : Prop :=
  ∀ (s : State) (nows : List Word32), s.Inv → s.enabled = true → s.config.timebase = .tickCount →
    s.blinkTimer.toNat < max s.blinkInterval.toNat 1 →
    ∃ t : State, Host.Core.run Sys2Proof.core nows.length (s.presenting (ticks nows)) = .next t ∧
      t.blinkTimer.toNat = (s.blinkTimer.toNat + nows.length) % max s.blinkInterval.toNat 1 ∧
      t.blinkOff = (s.blinkOff ^^
        decide ((s.blinkTimer.toNat + nows.length) / max s.blinkInterval.toNat 1 % 2 = 1))

/-! ## Who writes what -/

/-- 10_state.md section 5: the table of writers. What an instruction that answers a next state may have changed,
column by column; the configuration and the input ports are changed by none. The history `boot`, the model's own
(assumption 23), is changed by `BEGIN` and `NODISPLAY` only. -/
def Obligations.WritersTable : Prop :=
  ∀ (i : Instr) (s t : State), exec i s = .next t →
    ((∃ j, Memory.glyph t.memory j ≠ Memory.glyph s.memory j) → i = .begin ∨ i = .clear ∨ ∃ ch, i = .write ch) ∧
    ((∃ j, Memory.dp t.memory j ≠ Memory.dp s.memory j) → i = .begin ∨ i = .clear ∨ ∃ d on, i = .setdp d on) ∧
    ((∃ j, Memory.blink t.memory j ≠ Memory.blink s.memory j) →
      i = .begin ∨ i = .clear ∨ (∃ d, i = .blinkdigit d) ∨ (∃ d, i = .noblinkdigit d) ∨ i = .noblink) ∧
    (t.cursor ≠ s.cursor →
      i = .begin ∨ i = .clear ∨ i = .home ∨ (∃ pos, i = .setcursor pos) ∨ ∃ ch, i = .write ch) ∧
    (t.activeDigit ≠ s.activeDigit → i = .nodisplay ∨ (i = .refresh ∧ s.enabled = true)) ∧
    (t.enabled ≠ s.enabled → i = .begin ∨ i = .display ∨ i = .nodisplay) ∧
    (t.blinkOff ≠ s.blinkOff → i = .refresh ∧ s.enabled = true) ∧
    (t.blinkInterval ≠ s.blinkInterval → ∃ ms, i = .setblinkinterval ms) ∧
    (t.blinkTimer ≠ s.blinkTimer → i = .refresh ∧ s.enabled = true) ∧
    (t.boot ≠ s.boot → i = .begin ∨ i = .nodisplay) ∧
    (t.lines ≠ s.lines ∨ t.trace ≠ s.trace → i = .begin ∨ i = .nodisplay ∨ (i = .refresh ∧ s.enabled = true)) ∧
    t.config = s.config ∧ t.ports = s.ports ∧ t.pending = s.pending

/-- R99 (the spec's decision D32): the answer is 1 for a `WRITE` that stored a slot, and 0 for a `WRITE` at capacity,
every other instruction and a reserved opcode. -/
def Obligations.AnswerIsWriteConsumed : Prop :=
  (∀ (i : Instr) (s t : State), exec i s = .next t →
    (t.resp = true ↔ (∃ ch, i = .write ch) ∧ s.cursor.toNat < 16)) ∧
  (∀ (w : CommandWord) (e : DecodeReject) (s : State), decodeWord w = .error e →
    performCommand w s = .next { s with resp := false })

/-- R200: every event, with every operand value, in every state of the invariant, completes, and so does every step;
no instruction raises a fault in any state. -/
def Obligations.EveryEventCompletes : Prop :=
  (∀ s : State, s.Inv → (∀ i, ∃ t, exec i s = .next t) ∧ ∃ t, step s = .next t) ∧
  (∀ (i : Instr) (s : State) (r : Fault), exec i s ≠ .fault r)

/-- 60_exceptions.md section 1, 10_state.md section 7: whatever the configuration (if it is valid) and whatever the
host presents, the run from construction completes every step and stays in the invariant. Once it has performed a
`BEGIN` or a `NODISPLAY`, the invariant of the lines holds too. -/
def Obligations.EveryRunFromConstructionCompletes : Prop :=
  ∀ (c : Config) (ps : List Ports), c.valid = true →
    ∃ t : State, Host.Core.run Sys2Proof.core ps.length ((State.initial c).presenting ps) = .next t ∧ t.Inv ∧
      (t.boot ≠ .fresh → t.LinesKnown) ∧ t.config = c

/-! ## Invariants -/

/-- 10_state.md section 7 (I-a) to (I-c): the invariant holds after construction, whatever the valid configuration,
and no `BEGIN` or `NODISPLAY` has been performed there. -/
def Obligations.InvariantAtConstruction : Prop :=
  (∀ c : Config, c.valid = true → (State.initial c).Inv ∧ (State.initial c).boot = .fresh) ∧ State.reset.Inv

/-- 10_state.md section 7 (I-a) to (I-c): from every state of the invariant, a step leads to one: every glyph code is
a row of the table, the cursor is at most 16, the active digit exists, the buffer and the latches keep their canonical
form, only wired pins have a latch, and the tick counter cannot overflow. -/
def Obligations.InvariantKeptByEveryStep : Prop :=
  ∀ s t : State, s.Inv → step s = .next t → t.Inv

/-- 10_state.md section 7 (I-d), (I-e), 42_mux_scheduler.md section 5: the first `BEGIN` or `NODISPLAY` puts the lines
in a known state, from any state with a valid configuration: all of them inactive. -/
def Obligations.LinesKnownAfterShutdown : Prop :=
  ∀ (s : State) (i : Instr), s.config.valid = true → (i = .begin ∨ i = .nodisplay) →
    ∃ t, exec i s = .next t ∧ t.LinesKnown ∧ t.allInactive ∧ (i = .begin → t.boot = .begun)

/-- 10_state.md section 7 (I-d), (I-e), 42_mux_scheduler.md section 5: from the first `BEGIN` or `NODISPLAY` on, every
step keeps it: while disabled every wired line is inactive, while enabled at most the common line of the digit
refreshed last is asserted. That one of the two was performed is the premise `boot ≠ .fresh`, which every step keeps
too; a step that performs the first of them ends with the lines known. -/
def Obligations.LinesKnownKeptByEveryStep : Prop :=
  ∀ s t : State, s.Inv → (s.boot ≠ .fresh → s.LinesKnown) → step s = .next t →
    (t.boot ≠ .fresh → t.LinesKnown) ∧ (s.boot ≠ .fresh → t.boot ≠ .fresh) ∧ (s.boot = .begun → t.boot = .begun)

/-- 42_mux_scheduler.md section 5, the common-line decoder (derived there). After an enabled refresh of digit `a` the
wired common lines hold the one-hot code of `a` in the configured polarity; while disabled, after a shutdown, every
wired line is inactive. -/
def Obligations.CommonLineDecoder : Prop :=
  ∀ s : State, s.Inv → s.LinesKnown →
    (s.enabled = true → ∃ t, exec .refresh s = .next t ∧
      ∀ i, i < s.config.displaysCount → commonWired s.config i →
        t.line (commonPin s.config i) =
          .driven (if i = s.activeDigit.toNat then s.config.commonActiveLevel else !s.config.commonActiveLevel)) ∧
    (s.enabled = false → s.allInactive)

/-- R234 and 42_mux_scheduler.md section 5 ("never shows a stale mix"): the writes of an enabled refresh are ten, and
after each of the first nine, which are the deassertion and the segment writes, every wired common line is inactive.
-/
def Obligations.SegmentsChangeInTheDark : Prop :=
  ∀ s : State, s.Inv → s.LinesKnown → s.enabled = true →
    ∃ (t : State) (g : Fin 18) (ws : List (PinId × Level)), exec .refresh s = .next t ∧
      ws = refreshWrites s.config s.activeDigit.toNat (s.config.segmentMaskOf g)
        (Memory.dp s.memory s.activeDigit) ∧ ws.length = 10 ∧
      t.trace = s.trace ++ writeCalls ws ∧ t.lines = (gpioWrites ws s).lines ∧
      (∀ n, 1 ≤ n → n ≤ 9 → ∀ i, i < s.config.displaysCount → commonWired s.config i →
        (gpioWrites (ws.take n) s).commonInactive i) ∧
      (∀ n k, n < 10 → k < 8 → segmentWired s.config k → (∃ l, ws[n]? = some (segmentPin s.config k, l)) →
        1 ≤ n ∧ n ≤ 8)

/-- 10_state.md section 6, 70_reset_and_hazards.md section 3, 93_implementation_defined.md U2: once a `BEGIN` has been
performed, after an enabled refresh of digit `a` a digit with a wired common line shows a wired segment exactly when
it is digit `a` and the segment line was driven lit, whatever level the unknown pins have. Where no `BEGIN` has been
performed, what is shown is unknown: some levels show the segment and some do not. -/
def Obligations.OnlyTheActiveDigitShows : Prop :=
  (∀ s : State, s.Inv → s.LinesKnown → s.boot = .begun → s.enabled = true → ∃ t, exec .refresh s = .next t ∧
    ∀ (free : PinId → Level) (i k : Nat), i < s.config.displaysCount → k < 8 → commonWired s.config i →
      segmentWired s.config k → (t.shows free i k ↔ i = s.activeDigit.toNat ∧ t.segmentLit k)) ∧
  (∀ (s : State) (i k : Nat), s.config.valid = true → s.boot ≠ .begun → i < s.config.displaysCount → k < 8 →
    commonWired s.config i → segmentWired s.config k →
      (∃ free, s.shows free i k) ∧ ∃ free, ¬ s.shows free i k)

/-- 42_mux_scheduler.md section 5, the source's property of a full cycle: `n` refresh ticks while enabled advance the
active digit by `n` modulo `displaysCount`; the last digit refreshed is the one whose common line is asserted, all
others being inactive, and the segment lines show its slot with its blink flag and its decimal point; the buffer, the
cursor and the interval are as before. -/
def Obligations.RefreshTicksScanTheDigits : Prop :=
  ∀ (s : State) (nows : List Word32), s.Inv → s.LinesKnown → s.enabled = true → nows ≠ [] →
    ∃ (t : State) (a : SlotIndex) (g : Fin 18),
      Host.Core.run Sys2Proof.core nows.length (s.presenting (ticks nows)) = .next t ∧
      a.toNat = (s.activeDigit.toNat + (nows.length - 1)) % s.config.displaysCount ∧
      t.activeDigit.toNat = (s.activeDigit.toNat + nows.length) % s.config.displaysCount ∧
      t.oneHot a.toNat ∧
      g.val = (if Memory.blink s.memory a = true ∧ t.blinkOff = true then 16 else (Memory.glyph s.memory a).toNat) ∧
      (∀ k, k < 7 → segmentWired s.config k →
        t.line (segmentPin s.config k) = .driven (segLevel s.config (s.config.glyphMask[g].getLsbD k))) ∧
      (segmentWired s.config 7 →
        t.line (segmentPin s.config 7) = .driven (segLevel s.config (Memory.dp s.memory a))) ∧
      t.memory = s.memory ∧ t.cursor = s.cursor ∧ t.blinkInterval = s.blinkInterval ∧ t.enabled = true

/-! ## What depends on what -/

/-- 42_mux_scheduler.md section 6: which digit is lit next and which state the scheduler is in depend on the index,
the state and the event alone: no glyph, flag, cursor or timer value changes them. -/
def Obligations.SequencingIgnoresTheBuffer : Prop :=
  ∀ (i : Instr) (s s' t t' : State), s'.config = s.config → s'.activeDigit = s.activeDigit →
    s'.enabled = s.enabled → exec i s = .next t → exec i s' = .next t' →
      t'.activeDigit = t.activeDigit ∧ t'.enabled = t.enabled

/-- 10_state.md section 3: the scheduler never reads the cursor; where it stands has no effect on a refresh. -/
def Obligations.RefreshIgnoresTheCursor : Prop :=
  ∀ (s : State) (c : BitVec 5),
    exec .refresh (s.withCursor c) = mapNext (fun t => t.withCursor c) (exec .refresh s)

/-- 20_memory.md section 1, 42_mux_scheduler.md section 5: slots `displaysCount` to 15 are never shown: two states
that differ only there refresh alike. -/
def Obligations.HiddenSlotsNeverShown : Prop :=
  ∀ (s : State) (m : Memory), s.activeDigit.toNat < s.config.displaysCount →
    (∀ i : SlotIndex, i.toNat < s.config.displaysCount → Memory.read m i = Memory.read s.memory i) →
    exec .refresh (s.withMemory m) = mapNext (fun t => t.withMemory m) (exec .refresh s)

/-! ## The step -/

/-- 30_encoding.md section 1: a step runs what is presented on the input ports. With `s0` the state after sampling
(the ports taken, the trace empty): nothing presented, `s0` (that it keeps `resp` is the model's choice, assumption
7); a command, the instruction it decodes to, at `s0`; a tick, `REFRESH` at `s0`. A host that presents nothing more
presents neither; that such a step leaves the other input ports and `resp` as they were is the model's choice
(assumptions 3 and 7). -/
def Obligations.StepRunsWhatIsPresented : Prop :=
  (∀ (s : State) (p : Ports) (rest : List Ports), s.config.valid = true → s.pending = p :: rest →
    (p.cmdValid = false → p.refreshTick = false →
      step s = .next { s with ports := p, pending := rest, trace := [] }) ∧
    (p.cmdValid = true → p.refreshTick = false → ∀ i, decodeWord p.cmd = .ok i →
      step s = exec i { s with ports := p, pending := rest, trace := [] }) ∧
    (p.cmdValid = false → p.refreshTick = true →
      step s = exec .refresh { s with ports := p, pending := rest, trace := [] })) ∧
  (∀ s : State, s.config.valid = true → s.pending = [] →
    step s = .next { s with ports := { s.ports with cmdValid := false, refreshTick := false }, trace := [] })

/-- R73 (the spec's decision D1): a command and a refresh tick presented at the same instant: the command is performed
first and the refresh step second. (What `resp` then shows is the model's choice, assumption 7; the statement leaves
it open.) -/
def Obligations.CommandBeforeTick : Prop :=
  ∀ (s t u : State) (p : Ports) (rest : List Ports) (i : Instr), s.config.valid = true → s.pending = p :: rest →
    p.cmdValid = true → p.refreshTick = true → decodeWord p.cmd = .ok i →
    exec i { s with ports := p, pending := rest, trace := [] } = .next t → exec .refresh t = .next u →
    ∃ r, step s = .next { u with resp := r }

/-- 30_encoding.md section 1: the two ways of delivering a refresh step, the opcode and the tick, have identical
effect on the state and the outputs (all but what stands on the input ports themselves). -/
def Obligations.OpcodeAndTickRefreshAlike : Prop :=
  ∀ (s : State) (now : Word32) (rd : SlotIndex) (w v : CommandWord) (q : Ports), decodeWord w = .ok .refresh →
    mapNext (fun t => t.withPorts q)
      (step (s.presenting [{ cmdValid := true, cmd := w, refreshTick := false, now := now, rdAddr := rd }])) =
    mapNext (fun t => t.withPorts q)
      (step (s.presenting [{ cmdValid := false, cmd := v, refreshTick := true, now := now, rdAddr := rd }]))

/-- 30_encoding.md section 1 (how a word is placed is the model's, assumption 3): a word placed by `withFetchWord` is
what the very next step runs. -/
def Obligations.FetchWordRunsNext : Prop :=
  ∀ (s : State) (w : Nat) (i : Instr), s.config.valid = true → decodeTableWord 24 w = some i →
    step (s.withFetchWord 24 w) =
      exec i { s with ports := commandPorts s.ports (BitVec.ofNat 24 (w % 2 ^ 24)), trace := [] }
end

