-- ==== Sys2Proof/Laws/Assoc.lean ====
section
/-! SUPPORT. The laws of the lists by key that hold the buffer and the latches: a lookup after a store or a removal,
the rising order kept, and where an entry of the result comes from. -/

namespace Sys2Proof.Machine
variable {α : Type}

@[simp] theorem Assoc.lookup_nil (j : Nat) : Assoc.lookup j ([] : List (Nat × α)) = none := rfl

theorem Assoc.lookup_cons (c : Nat × α) (l : List (Nat × α)) (j : Nat) :
    Assoc.lookup j (c :: l) = if j = c.1 then some c.2 else Assoc.lookup j l := by
  by_cases h : j = c.1
  · simp [Assoc.lookup, h]
  · have h' : ¬ c.1 = j := fun e => h e.symm
    simp [Assoc.lookup, h, h']

theorem Assoc.lookup_insert (k j : Nat) (v : α) (l : List (Nat × α)) :
    Assoc.lookup j (Assoc.insert k v l) = if j = k then some v else Assoc.lookup j l := by
  induction l with
  | nil => simp [Assoc.insert, Assoc.lookup_cons]
  | cons c rest ih =>
    unfold Assoc.insert
    split
    · simp [Assoc.lookup_cons]
    · split
      · rename_i hk
        by_cases hj : j = k <;> simp [Assoc.lookup_cons, ← hk, hj]
      · rename_i h1 h2
        by_cases hj : j = k
        · subst hj; simp [Assoc.lookup_cons, ih, h2]
        · simp [Assoc.lookup_cons, ih, hj]

theorem Assoc.lookup_erase (k j : Nat) (l : List (Nat × α)) :
    Assoc.lookup j (Assoc.erase k l) = if j = k then none else Assoc.lookup j l := by
  induction l with
  | nil => simp [Assoc.erase]
  | cons c rest ih =>
    unfold Assoc.erase
    by_cases hj : j = k
    · subst hj
      split
      · simpa using ih
      · rename_i h
        have h' : ¬ j = c.1 := fun e => h e.symm
        simpa [Assoc.lookup_cons, h'] using ih
    · split
      · rename_i h
        simp [Assoc.lookup_cons, ih, hj, h]
      · simp [Assoc.lookup_cons, ih, hj]

theorem Assoc.mem_insert {k : Nat} {v : α} {l : List (Nat × α)} {c : Nat × α}
    (h : c ∈ Assoc.insert k v l) : c = (k, v) ∨ c ∈ l := by
  induction l with
  | nil => simpa [Assoc.insert] using h
  | cons d rest ih =>
    unfold Assoc.insert at h
    split at h
    · simpa using h
    · split at h
      · rcases List.mem_cons.1 h with h | h
        · exact .inl h
        · exact .inr (List.mem_cons_of_mem _ h)
      · rcases List.mem_cons.1 h with h | h
        · exact .inr (h ▸ List.mem_cons_self)
        · exact (ih h).imp id (List.mem_cons_of_mem _)

theorem Assoc.mem_erase {k : Nat} {l : List (Nat × α)} {c : Nat × α} (h : c ∈ Assoc.erase k l) : c ∈ l := by
  induction l with
  | nil => simp [Assoc.erase] at h
  | cons d rest ih =>
    unfold Assoc.erase at h
    split at h
    · exact List.mem_cons_of_mem _ (ih h)
    · rcases List.mem_cons.1 h with h | h
      · exact h ▸ List.mem_cons_self
      · exact List.mem_cons_of_mem _ (ih h)

/-- The rising order as a statement about pairs of entries. -/
theorem Assoc.rising_iff (l : List (Nat × α)) :
    Assoc.rising l = true ↔ l.Pairwise (fun a b => a.1 < b.1) := by
  induction l with
  | nil => simp [Assoc.rising]
  | cons a rest ih =>
    cases rest with
    | nil => simp [Assoc.rising]
    | cons b rest =>
      rw [Assoc.rising, Bool.and_eq_true, ih, decide_eq_true_eq, List.pairwise_cons (a := a)]
      constructor
      · rintro ⟨hab, hp⟩
        refine ⟨fun x hx => ?_, hp⟩
        rcases List.mem_cons.1 hx with rfl | hx
        · exact hab
        · exact lt_trans hab ((List.pairwise_cons.1 hp).1 x hx)
      · rintro ⟨ha, hp⟩
        exact ⟨ha b List.mem_cons_self, hp⟩

theorem Assoc.rising_insert {l : List (Nat × α)} (k : Nat) (v : α) (h : Assoc.rising l = true) :
    Assoc.rising (Assoc.insert k v l) = true := by
  rw [Assoc.rising_iff] at h ⊢
  induction l with
  | nil => simp [Assoc.insert]
  | cons c rest ih =>
    obtain ⟨hc, hr⟩ := List.pairwise_cons.1 h
    unfold Assoc.insert
    split
    · rename_i hk
      refine List.pairwise_cons.2 ⟨fun x hx => ?_, h⟩
      rcases List.mem_cons.1 hx with rfl | hx
      · exact hk
      · exact lt_trans hk (hc x hx)
    · split
      · rename_i hk
        exact List.pairwise_cons.2 ⟨fun x hx => by simpa [hk] using hc x hx, hr⟩
      · rename_i h1 h2
        refine List.pairwise_cons.2 ⟨fun x hx => ?_, ih hr⟩
        rcases Assoc.mem_insert hx with rfl | hx
        · show c.1 < k; omega
        · exact hc x hx

theorem Assoc.rising_erase {l : List (Nat × α)} (k : Nat) (h : Assoc.rising l = true) :
    Assoc.rising (Assoc.erase k l) = true := by
  rw [Assoc.rising_iff] at h ⊢
  induction l with
  | nil => simp [Assoc.erase]
  | cons c rest ih =>
    obtain ⟨hc, hr⟩ := List.pairwise_cons.1 h
    unfold Assoc.erase
    split
    · exact ih hr
    · exact List.pairwise_cons.2 ⟨fun x hx => hc x (Assoc.mem_erase hx), ih hr⟩

/-- Two rising lists that answer every lookup alike are the same list. -/
theorem Assoc.eq_of_lookup_eq {l m : List (Nat × α)} (hl : Assoc.rising l = true) (hm : Assoc.rising m = true)
    (h : ∀ j, Assoc.lookup j l = Assoc.lookup j m) : l = m := by
  rw [Assoc.rising_iff] at hl hm
  have absent : ∀ {x : Nat} {t : List (Nat × α)}, (∀ y ∈ t, x < y.1) → Assoc.lookup x t = none := by
    intro x t
    induction t with
    | nil => intro _; rfl
    | cons d t ih =>
      intro hx
      have hd : d.1 ≠ x := by have := hx d List.mem_cons_self; omega
      rw [Assoc.lookup, if_neg hd]
      exact ih fun y hy => hx y (List.mem_cons_of_mem _ hy)
  induction l generalizing m with
  | nil =>
    cases m with
    | nil => rfl
    | cons d m => simpa [Assoc.lookup_cons] using h d.1
  | cons c l ih =>
    cases m with
    | nil => simpa [Assoc.lookup_cons] using h c.1
    | cons d m =>
      obtain ⟨hc, hl'⟩ := List.pairwise_cons.1 hl
      obtain ⟨hd, hm'⟩ := List.pairwise_cons.1 hm
      have key : c.1 = d.1 := by
        rcases Nat.lt_trichotomy c.1 d.1 with hlt | heq | hlt
        · have h2 : Assoc.lookup c.1 (d :: m) = none := absent fun y hy => by
            rcases List.mem_cons.1 hy with rfl | hy
            · exact hlt
            · exact lt_trans hlt (hd y hy)
          have h3 := h c.1
          rw [h2] at h3
          simp [Assoc.lookup_cons] at h3
        · exact heq
        · have h2 : Assoc.lookup d.1 (c :: l) = none := absent fun y hy => by
            rcases List.mem_cons.1 hy with rfl | hy
            · exact hlt
            · exact lt_trans hlt (hc y hy)
          have h3 := h d.1
          rw [h2] at h3
          simp [Assoc.lookup_cons] at h3
      have val : c.2 = d.2 := by
        have := h c.1
        simpa [Assoc.lookup_cons, key] using this
      have rest : l = m := ih hl' hm' fun j => by
        by_cases hj : j = c.1
        · rw [hj, absent hc, key, absent hd]
        · have h3 := h j
          have hd' : ¬ j = d.1 := by omega
          simpa [Assoc.lookup_cons, hj, hd'] using h3
      rw [rest, Prod.ext key val]

end Sys2Proof.Machine
end

