-- ==== Sys2Proof/Laws/State.lean ====
section
/-! SUPPORT. What each one-field update does to each field of the state, so that no later proof unfolds an update;
and `line`, which only an update of the latches can change, is in Sys2Proof/Laws/Gpio.lean. -/

namespace Sys2Proof.Machine

section WithMemory
variable (s : State) (v : Memory)
@[simp] theorem State.withMemory_config : (s.withMemory v).config = s.config := rfl
@[simp] theorem State.withMemory_memory : (s.withMemory v).memory = v := rfl
@[simp] theorem State.withMemory_cursor : (s.withMemory v).cursor = s.cursor := rfl
@[simp] theorem State.withMemory_activeDigit : (s.withMemory v).activeDigit = s.activeDigit := rfl
@[simp] theorem State.withMemory_enabled : (s.withMemory v).enabled = s.enabled := rfl
@[simp] theorem State.withMemory_blinkOff : (s.withMemory v).blinkOff = s.blinkOff := rfl
@[simp] theorem State.withMemory_blinkInterval : (s.withMemory v).blinkInterval = s.blinkInterval := rfl
@[simp] theorem State.withMemory_blinkTimer : (s.withMemory v).blinkTimer = s.blinkTimer := rfl
@[simp] theorem State.withMemory_lines : (s.withMemory v).lines = s.lines := rfl
@[simp] theorem State.withMemory_boot : (s.withMemory v).boot = s.boot := rfl
@[simp] theorem State.withMemory_ports : (s.withMemory v).ports = s.ports := rfl
@[simp] theorem State.withMemory_pending : (s.withMemory v).pending = s.pending := rfl
@[simp] theorem State.withMemory_resp : (s.withMemory v).resp = s.resp := rfl
@[simp] theorem State.withMemory_trace : (s.withMemory v).trace = s.trace := rfl
end WithMemory

section WithCursor
variable (s : State) (v : BitVec 5)
@[simp] theorem State.withCursor_config : (s.withCursor v).config = s.config := rfl
@[simp] theorem State.withCursor_memory : (s.withCursor v).memory = s.memory := rfl
@[simp] theorem State.withCursor_cursor : (s.withCursor v).cursor = v := rfl
@[simp] theorem State.withCursor_activeDigit : (s.withCursor v).activeDigit = s.activeDigit := rfl
@[simp] theorem State.withCursor_enabled : (s.withCursor v).enabled = s.enabled := rfl
@[simp] theorem State.withCursor_blinkOff : (s.withCursor v).blinkOff = s.blinkOff := rfl
@[simp] theorem State.withCursor_blinkInterval : (s.withCursor v).blinkInterval = s.blinkInterval := rfl
@[simp] theorem State.withCursor_blinkTimer : (s.withCursor v).blinkTimer = s.blinkTimer := rfl
@[simp] theorem State.withCursor_lines : (s.withCursor v).lines = s.lines := rfl
@[simp] theorem State.withCursor_boot : (s.withCursor v).boot = s.boot := rfl
@[simp] theorem State.withCursor_ports : (s.withCursor v).ports = s.ports := rfl
@[simp] theorem State.withCursor_pending : (s.withCursor v).pending = s.pending := rfl
@[simp] theorem State.withCursor_resp : (s.withCursor v).resp = s.resp := rfl
@[simp] theorem State.withCursor_trace : (s.withCursor v).trace = s.trace := rfl
end WithCursor

section WithActiveDigit
variable (s : State) (v : BitVec 4)
@[simp] theorem State.withActiveDigit_config : (s.withActiveDigit v).config = s.config := rfl
@[simp] theorem State.withActiveDigit_memory : (s.withActiveDigit v).memory = s.memory := rfl
@[simp] theorem State.withActiveDigit_cursor : (s.withActiveDigit v).cursor = s.cursor := rfl
@[simp] theorem State.withActiveDigit_activeDigit : (s.withActiveDigit v).activeDigit = v := rfl
@[simp] theorem State.withActiveDigit_enabled : (s.withActiveDigit v).enabled = s.enabled := rfl
@[simp] theorem State.withActiveDigit_blinkOff : (s.withActiveDigit v).blinkOff = s.blinkOff := rfl
@[simp] theorem State.withActiveDigit_blinkInterval : (s.withActiveDigit v).blinkInterval = s.blinkInterval := rfl
@[simp] theorem State.withActiveDigit_blinkTimer : (s.withActiveDigit v).blinkTimer = s.blinkTimer := rfl
@[simp] theorem State.withActiveDigit_lines : (s.withActiveDigit v).lines = s.lines := rfl
@[simp] theorem State.withActiveDigit_boot : (s.withActiveDigit v).boot = s.boot := rfl
@[simp] theorem State.withActiveDigit_ports : (s.withActiveDigit v).ports = s.ports := rfl
@[simp] theorem State.withActiveDigit_pending : (s.withActiveDigit v).pending = s.pending := rfl
@[simp] theorem State.withActiveDigit_resp : (s.withActiveDigit v).resp = s.resp := rfl
@[simp] theorem State.withActiveDigit_trace : (s.withActiveDigit v).trace = s.trace := rfl
end WithActiveDigit

section WithEnabled
variable (s : State) (v : Bool)
@[simp] theorem State.withEnabled_config : (s.withEnabled v).config = s.config := rfl
@[simp] theorem State.withEnabled_memory : (s.withEnabled v).memory = s.memory := rfl
@[simp] theorem State.withEnabled_cursor : (s.withEnabled v).cursor = s.cursor := rfl
@[simp] theorem State.withEnabled_activeDigit : (s.withEnabled v).activeDigit = s.activeDigit := rfl
@[simp] theorem State.withEnabled_enabled : (s.withEnabled v).enabled = v := rfl
@[simp] theorem State.withEnabled_blinkOff : (s.withEnabled v).blinkOff = s.blinkOff := rfl
@[simp] theorem State.withEnabled_blinkInterval : (s.withEnabled v).blinkInterval = s.blinkInterval := rfl
@[simp] theorem State.withEnabled_blinkTimer : (s.withEnabled v).blinkTimer = s.blinkTimer := rfl
@[simp] theorem State.withEnabled_lines : (s.withEnabled v).lines = s.lines := rfl
@[simp] theorem State.withEnabled_boot : (s.withEnabled v).boot = s.boot := rfl
@[simp] theorem State.withEnabled_ports : (s.withEnabled v).ports = s.ports := rfl
@[simp] theorem State.withEnabled_pending : (s.withEnabled v).pending = s.pending := rfl
@[simp] theorem State.withEnabled_resp : (s.withEnabled v).resp = s.resp := rfl
@[simp] theorem State.withEnabled_trace : (s.withEnabled v).trace = s.trace := rfl
end WithEnabled

section WithBlinkOff
variable (s : State) (v : Bool)
@[simp] theorem State.withBlinkOff_config : (s.withBlinkOff v).config = s.config := rfl
@[simp] theorem State.withBlinkOff_memory : (s.withBlinkOff v).memory = s.memory := rfl
@[simp] theorem State.withBlinkOff_cursor : (s.withBlinkOff v).cursor = s.cursor := rfl
@[simp] theorem State.withBlinkOff_activeDigit : (s.withBlinkOff v).activeDigit = s.activeDigit := rfl
@[simp] theorem State.withBlinkOff_enabled : (s.withBlinkOff v).enabled = s.enabled := rfl
@[simp] theorem State.withBlinkOff_blinkOff : (s.withBlinkOff v).blinkOff = v := rfl
@[simp] theorem State.withBlinkOff_blinkInterval : (s.withBlinkOff v).blinkInterval = s.blinkInterval := rfl
@[simp] theorem State.withBlinkOff_blinkTimer : (s.withBlinkOff v).blinkTimer = s.blinkTimer := rfl
@[simp] theorem State.withBlinkOff_lines : (s.withBlinkOff v).lines = s.lines := rfl
@[simp] theorem State.withBlinkOff_boot : (s.withBlinkOff v).boot = s.boot := rfl
@[simp] theorem State.withBlinkOff_ports : (s.withBlinkOff v).ports = s.ports := rfl
@[simp] theorem State.withBlinkOff_pending : (s.withBlinkOff v).pending = s.pending := rfl
@[simp] theorem State.withBlinkOff_resp : (s.withBlinkOff v).resp = s.resp := rfl
@[simp] theorem State.withBlinkOff_trace : (s.withBlinkOff v).trace = s.trace := rfl
end WithBlinkOff

section WithBlinkInterval
variable (s : State) (v : Word32)
@[simp] theorem State.withBlinkInterval_config : (s.withBlinkInterval v).config = s.config := rfl
@[simp] theorem State.withBlinkInterval_memory : (s.withBlinkInterval v).memory = s.memory := rfl
@[simp] theorem State.withBlinkInterval_cursor : (s.withBlinkInterval v).cursor = s.cursor := rfl
@[simp] theorem State.withBlinkInterval_activeDigit : (s.withBlinkInterval v).activeDigit = s.activeDigit := rfl
@[simp] theorem State.withBlinkInterval_enabled : (s.withBlinkInterval v).enabled = s.enabled := rfl
@[simp] theorem State.withBlinkInterval_blinkOff : (s.withBlinkInterval v).blinkOff = s.blinkOff := rfl
@[simp] theorem State.withBlinkInterval_blinkInterval : (s.withBlinkInterval v).blinkInterval = v := rfl
@[simp] theorem State.withBlinkInterval_blinkTimer : (s.withBlinkInterval v).blinkTimer = s.blinkTimer := rfl
@[simp] theorem State.withBlinkInterval_lines : (s.withBlinkInterval v).lines = s.lines := rfl
@[simp] theorem State.withBlinkInterval_boot : (s.withBlinkInterval v).boot = s.boot := rfl
@[simp] theorem State.withBlinkInterval_ports : (s.withBlinkInterval v).ports = s.ports := rfl
@[simp] theorem State.withBlinkInterval_pending : (s.withBlinkInterval v).pending = s.pending := rfl
@[simp] theorem State.withBlinkInterval_resp : (s.withBlinkInterval v).resp = s.resp := rfl
@[simp] theorem State.withBlinkInterval_trace : (s.withBlinkInterval v).trace = s.trace := rfl
end WithBlinkInterval

section WithBlinkTimer
variable (s : State) (v : Word32)
@[simp] theorem State.withBlinkTimer_config : (s.withBlinkTimer v).config = s.config := rfl
@[simp] theorem State.withBlinkTimer_memory : (s.withBlinkTimer v).memory = s.memory := rfl
@[simp] theorem State.withBlinkTimer_cursor : (s.withBlinkTimer v).cursor = s.cursor := rfl
@[simp] theorem State.withBlinkTimer_activeDigit : (s.withBlinkTimer v).activeDigit = s.activeDigit := rfl
@[simp] theorem State.withBlinkTimer_enabled : (s.withBlinkTimer v).enabled = s.enabled := rfl
@[simp] theorem State.withBlinkTimer_blinkOff : (s.withBlinkTimer v).blinkOff = s.blinkOff := rfl
@[simp] theorem State.withBlinkTimer_blinkInterval : (s.withBlinkTimer v).blinkInterval = s.blinkInterval := rfl
@[simp] theorem State.withBlinkTimer_blinkTimer : (s.withBlinkTimer v).blinkTimer = v := rfl
@[simp] theorem State.withBlinkTimer_lines : (s.withBlinkTimer v).lines = s.lines := rfl
@[simp] theorem State.withBlinkTimer_boot : (s.withBlinkTimer v).boot = s.boot := rfl
@[simp] theorem State.withBlinkTimer_ports : (s.withBlinkTimer v).ports = s.ports := rfl
@[simp] theorem State.withBlinkTimer_pending : (s.withBlinkTimer v).pending = s.pending := rfl
@[simp] theorem State.withBlinkTimer_resp : (s.withBlinkTimer v).resp = s.resp := rfl
@[simp] theorem State.withBlinkTimer_trace : (s.withBlinkTimer v).trace = s.trace := rfl
end WithBlinkTimer

section WithLines
variable (s : State) (v : Lines)
@[simp] theorem State.withLines_config : (s.withLines v).config = s.config := rfl
@[simp] theorem State.withLines_memory : (s.withLines v).memory = s.memory := rfl
@[simp] theorem State.withLines_cursor : (s.withLines v).cursor = s.cursor := rfl
@[simp] theorem State.withLines_activeDigit : (s.withLines v).activeDigit = s.activeDigit := rfl
@[simp] theorem State.withLines_enabled : (s.withLines v).enabled = s.enabled := rfl
@[simp] theorem State.withLines_blinkOff : (s.withLines v).blinkOff = s.blinkOff := rfl
@[simp] theorem State.withLines_blinkInterval : (s.withLines v).blinkInterval = s.blinkInterval := rfl
@[simp] theorem State.withLines_blinkTimer : (s.withLines v).blinkTimer = s.blinkTimer := rfl
@[simp] theorem State.withLines_lines : (s.withLines v).lines = v := rfl
@[simp] theorem State.withLines_boot : (s.withLines v).boot = s.boot := rfl
@[simp] theorem State.withLines_ports : (s.withLines v).ports = s.ports := rfl
@[simp] theorem State.withLines_pending : (s.withLines v).pending = s.pending := rfl
@[simp] theorem State.withLines_resp : (s.withLines v).resp = s.resp := rfl
@[simp] theorem State.withLines_trace : (s.withLines v).trace = s.trace := rfl
end WithLines

section WithBoot
variable (s : State) (v : Boot)
@[simp] theorem State.withBoot_config : (s.withBoot v).config = s.config := rfl
@[simp] theorem State.withBoot_memory : (s.withBoot v).memory = s.memory := rfl
@[simp] theorem State.withBoot_cursor : (s.withBoot v).cursor = s.cursor := rfl
@[simp] theorem State.withBoot_activeDigit : (s.withBoot v).activeDigit = s.activeDigit := rfl
@[simp] theorem State.withBoot_enabled : (s.withBoot v).enabled = s.enabled := rfl
@[simp] theorem State.withBoot_blinkOff : (s.withBoot v).blinkOff = s.blinkOff := rfl
@[simp] theorem State.withBoot_blinkInterval : (s.withBoot v).blinkInterval = s.blinkInterval := rfl
@[simp] theorem State.withBoot_blinkTimer : (s.withBoot v).blinkTimer = s.blinkTimer := rfl
@[simp] theorem State.withBoot_lines : (s.withBoot v).lines = s.lines := rfl
@[simp] theorem State.withBoot_boot : (s.withBoot v).boot = v := rfl
@[simp] theorem State.withBoot_ports : (s.withBoot v).ports = s.ports := rfl
@[simp] theorem State.withBoot_pending : (s.withBoot v).pending = s.pending := rfl
@[simp] theorem State.withBoot_resp : (s.withBoot v).resp = s.resp := rfl
@[simp] theorem State.withBoot_trace : (s.withBoot v).trace = s.trace := rfl
end WithBoot

section WithPorts
variable (s : State) (v : Ports)
@[simp] theorem State.withPorts_config : (s.withPorts v).config = s.config := rfl
@[simp] theorem State.withPorts_memory : (s.withPorts v).memory = s.memory := rfl
@[simp] theorem State.withPorts_cursor : (s.withPorts v).cursor = s.cursor := rfl
@[simp] theorem State.withPorts_activeDigit : (s.withPorts v).activeDigit = s.activeDigit := rfl
@[simp] theorem State.withPorts_enabled : (s.withPorts v).enabled = s.enabled := rfl
@[simp] theorem State.withPorts_blinkOff : (s.withPorts v).blinkOff = s.blinkOff := rfl
@[simp] theorem State.withPorts_blinkInterval : (s.withPorts v).blinkInterval = s.blinkInterval := rfl
@[simp] theorem State.withPorts_blinkTimer : (s.withPorts v).blinkTimer = s.blinkTimer := rfl
@[simp] theorem State.withPorts_lines : (s.withPorts v).lines = s.lines := rfl
@[simp] theorem State.withPorts_boot : (s.withPorts v).boot = s.boot := rfl
@[simp] theorem State.withPorts_ports : (s.withPorts v).ports = v := rfl
@[simp] theorem State.withPorts_pending : (s.withPorts v).pending = s.pending := rfl
@[simp] theorem State.withPorts_resp : (s.withPorts v).resp = s.resp := rfl
@[simp] theorem State.withPorts_trace : (s.withPorts v).trace = s.trace := rfl
end WithPorts

section WithPending
variable (s : State) (v : List Ports)
@[simp] theorem State.withPending_config : (s.withPending v).config = s.config := rfl
@[simp] theorem State.withPending_memory : (s.withPending v).memory = s.memory := rfl
@[simp] theorem State.withPending_cursor : (s.withPending v).cursor = s.cursor := rfl
@[simp] theorem State.withPending_activeDigit : (s.withPending v).activeDigit = s.activeDigit := rfl
@[simp] theorem State.withPending_enabled : (s.withPending v).enabled = s.enabled := rfl
@[simp] theorem State.withPending_blinkOff : (s.withPending v).blinkOff = s.blinkOff := rfl
@[simp] theorem State.withPending_blinkInterval : (s.withPending v).blinkInterval = s.blinkInterval := rfl
@[simp] theorem State.withPending_blinkTimer : (s.withPending v).blinkTimer = s.blinkTimer := rfl
@[simp] theorem State.withPending_lines : (s.withPending v).lines = s.lines := rfl
@[simp] theorem State.withPending_boot : (s.withPending v).boot = s.boot := rfl
@[simp] theorem State.withPending_ports : (s.withPending v).ports = s.ports := rfl
@[simp] theorem State.withPending_pending : (s.withPending v).pending = v := rfl
@[simp] theorem State.withPending_resp : (s.withPending v).resp = s.resp := rfl
@[simp] theorem State.withPending_trace : (s.withPending v).trace = s.trace := rfl
end WithPending

section WithResp
variable (s : State) (v : Bool)
@[simp] theorem State.withResp_config : (s.withResp v).config = s.config := rfl
@[simp] theorem State.withResp_memory : (s.withResp v).memory = s.memory := rfl
@[simp] theorem State.withResp_cursor : (s.withResp v).cursor = s.cursor := rfl
@[simp] theorem State.withResp_activeDigit : (s.withResp v).activeDigit = s.activeDigit := rfl
@[simp] theorem State.withResp_enabled : (s.withResp v).enabled = s.enabled := rfl
@[simp] theorem State.withResp_blinkOff : (s.withResp v).blinkOff = s.blinkOff := rfl
@[simp] theorem State.withResp_blinkInterval : (s.withResp v).blinkInterval = s.blinkInterval := rfl
@[simp] theorem State.withResp_blinkTimer : (s.withResp v).blinkTimer = s.blinkTimer := rfl
@[simp] theorem State.withResp_lines : (s.withResp v).lines = s.lines := rfl
@[simp] theorem State.withResp_boot : (s.withResp v).boot = s.boot := rfl
@[simp] theorem State.withResp_ports : (s.withResp v).ports = s.ports := rfl
@[simp] theorem State.withResp_pending : (s.withResp v).pending = s.pending := rfl
@[simp] theorem State.withResp_resp : (s.withResp v).resp = v := rfl
@[simp] theorem State.withResp_trace : (s.withResp v).trace = s.trace := rfl
end WithResp

section WithTrace
variable (s : State) (v : List GpioCall)
@[simp] theorem State.withTrace_config : (s.withTrace v).config = s.config := rfl
@[simp] theorem State.withTrace_memory : (s.withTrace v).memory = s.memory := rfl
@[simp] theorem State.withTrace_cursor : (s.withTrace v).cursor = s.cursor := rfl
@[simp] theorem State.withTrace_activeDigit : (s.withTrace v).activeDigit = s.activeDigit := rfl
@[simp] theorem State.withTrace_enabled : (s.withTrace v).enabled = s.enabled := rfl
@[simp] theorem State.withTrace_blinkOff : (s.withTrace v).blinkOff = s.blinkOff := rfl
@[simp] theorem State.withTrace_blinkInterval : (s.withTrace v).blinkInterval = s.blinkInterval := rfl
@[simp] theorem State.withTrace_blinkTimer : (s.withTrace v).blinkTimer = s.blinkTimer := rfl
@[simp] theorem State.withTrace_lines : (s.withTrace v).lines = s.lines := rfl
@[simp] theorem State.withTrace_boot : (s.withTrace v).boot = s.boot := rfl
@[simp] theorem State.withTrace_ports : (s.withTrace v).ports = s.ports := rfl
@[simp] theorem State.withTrace_pending : (s.withTrace v).pending = s.pending := rfl
@[simp] theorem State.withTrace_resp : (s.withTrace v).resp = s.resp := rfl
@[simp] theorem State.withTrace_trace : (s.withTrace v).trace = v := rfl
end WithTrace

end Sys2Proof.Machine
end

