-- ==== Sys2Proof/Laws/Config.lean ====
section
/-! SUPPORT. What a valid configuration gives (R7): the bounds of `displaysCount`, the two list lengths, and that two
wired entries that name the same pin are the same entry. -/

namespace Sys2Proof.Machine

theorem valid_iff (c : Config) :
    c.valid = true ↔ (1 ≤ c.displaysCount ∧ c.displaysCount ≤ 16) ∧ c.commonDriverPins.length = c.displaysCount ∧
      c.segmentPins.length = 8 ∧ c.wiredPins.Nodup ∧ c.defaultTickPeriodMicros ≠ 0 := by
  simp only [Config.valid, Config.countOk, Config.commonsOk, Config.segmentsOk, Config.pinsDistinct,
    Config.defaultPeriodOk, Bool.and_eq_true, decide_eq_true_eq, beq_iff_eq, bne_iff_ne, ne_eq, and_assoc]
  exact Iff.rfl

variable {c : Config}

theorem valid_count_pos (h : c.valid = true) : 0 < c.displaysCount := ((valid_iff c).1 h).1.1
theorem valid_count_le (h : c.valid = true) : c.displaysCount ≤ 16 := ((valid_iff c).1 h).1.2
theorem valid_commons_length (h : c.valid = true) : c.commonDriverPins.length = c.displaysCount :=
  ((valid_iff c).1 h).2.1
theorem valid_segments_length (h : c.valid = true) : c.segmentPins.length = 8 := ((valid_iff c).1 h).2.2.1

/-- The tick period in effect is never zero (R6, R205). -/
theorem tickPeriodEff_ne_zero (h : c.valid = true) : c.tickPeriodEff ≠ 0 := by
  unfold Config.tickPeriodEff
  split
  · exact ((valid_iff c).1 h).2.2.2.2
  · assumption

/-- Two positions of both lists together that hold the same wired pin are one position. -/
theorem wired_position_unique (h : c.valid = true) {i j : Nat}
    (hi : i < (c.segmentPins ++ c.commonDriverPins).length) (hj : j < (c.segmentPins ++ c.commonDriverPins).length)
    (hw : (c.segmentPins ++ c.commonDriverPins)[i] ≠ unusedPin)
    (he : (c.segmentPins ++ c.commonDriverPins)[i] = (c.segmentPins ++ c.commonDriverPins)[j]) : i = j := by
  have hn := ((valid_iff c).1 h).2.2.2.1
  rw [Config.wiredPins, List.Nodup, List.pairwise_filter, List.pairwise_iff_getElem] at hn
  rcases Nat.lt_trichotomy i j with hlt | heq | hlt
  · exact absurd he (hn i j hi hj hlt (by simpa using hw) (by simpa using he ▸ hw))
  · exact heq
  · exact absurd he.symm (hn j i hj hi hlt (by simpa using he ▸ hw) (by simpa using hw))

theorem commonPin_eq_getElem {i : Nat} (hi : i < c.commonDriverPins.length) :
    commonPin c i = c.commonDriverPins[i] := by
  rw [commonPin, List.getD_eq_getElem?_getD, List.getElem?_eq_getElem hi, Option.getD_some]

theorem segmentPin_eq_getElem {k : Nat} (hk : k < c.segmentPins.length) : segmentPin c k = c.segmentPins[k] := by
  rw [segmentPin, List.getD_eq_getElem?_getD, List.getElem?_eq_getElem hk, Option.getD_some]

/-- Two digits with the same wired common pin are one digit. -/
theorem commonPin_inj (h : c.valid = true) {i j : Nat} (hi : i < c.displaysCount) (hj : j < c.displaysCount)
    (hw : commonPin c i ≠ unusedPin) (he : commonPin c i = commonPin c j) : i = j := by
  have hlen := valid_commons_length h
  have hi' : i < c.commonDriverPins.length := by omega
  have hj' : j < c.commonDriverPins.length := by omega
  rw [commonPin_eq_getElem hi'] at hw he
  rw [commonPin_eq_getElem hj'] at he
  have := wired_position_unique h (i := c.segmentPins.length + i) (j := c.segmentPins.length + j)
    (by rw [List.length_append]; omega) (by rw [List.length_append]; omega)
    (by rw [List.getElem_append_right (by omega)]; simpa using hw)
    (by rw [List.getElem_append_right (by omega), List.getElem_append_right (by omega)]; simpa using he)
  omega

/-- Two segment lines with the same wired pin are one line. -/
theorem segmentPin_inj (h : c.valid = true) {i j : Nat} (hi : i < 8) (hj : j < 8)
    (hw : segmentPin c i ≠ unusedPin) (he : segmentPin c i = segmentPin c j) : i = j := by
  have hlen := valid_segments_length h
  have hi' : i < c.segmentPins.length := by omega
  have hj' : j < c.segmentPins.length := by omega
  rw [segmentPin_eq_getElem hi'] at hw he
  rw [segmentPin_eq_getElem hj'] at he
  exact wired_position_unique h (by rw [List.length_append]; omega) (by rw [List.length_append]; omega)
    (by rwa [List.getElem_append_left hi'])
    (by rwa [List.getElem_append_left hi', List.getElem_append_left hj'])

/-- A wired common line is no segment line. -/
theorem commonPin_ne_segmentPin (h : c.valid = true) {i k : Nat} (hi : i < c.displaysCount) (hk : k < 8)
    (hw : commonPin c i ≠ unusedPin) : commonPin c i ≠ segmentPin c k := by
  intro he
  have hlen := valid_commons_length h
  have hlen' := valid_segments_length h
  have hi' : i < c.commonDriverPins.length := by omega
  have hk' : k < c.segmentPins.length := by omega
  rw [commonPin_eq_getElem hi'] at hw he
  rw [segmentPin_eq_getElem hk'] at he
  have := wired_position_unique h (i := c.segmentPins.length + i) (j := k)
    (by rw [List.length_append]; omega) (by rw [List.length_append]; omega)
    (by rw [List.getElem_append_right (by omega)]; simpa using hw)
    (by rw [List.getElem_append_right (by omega), List.getElem_append_left hk']; simpa using he)
  omega

/-- A wired common line is a wired pin of the configuration. -/
theorem commonPin_mem_wiredPins (h : c.valid = true) {i : Nat} (hi : i < c.displaysCount)
    (hw : commonPin c i ≠ unusedPin) : commonPin c i ∈ c.wiredPins := by
  have hi' : i < c.commonDriverPins.length := by rw [valid_commons_length h]; exact hi
  rw [commonPin_eq_getElem hi'] at hw ⊢
  simp [Config.wiredPins, hw]

/-- A wired segment line is a wired pin of the configuration. -/
theorem segmentPin_mem_wiredPins (h : c.valid = true) {k : Nat} (hk : k < 8)
    (hw : segmentPin c k ≠ unusedPin) : segmentPin c k ∈ c.wiredPins := by
  have hk' : k < c.segmentPins.length := by rw [valid_segments_length h]; exact hk
  rw [segmentPin_eq_getElem hk'] at hw ⊢
  simp [Config.wiredPins, hw]

end Sys2Proof.Machine
end

