-- ==== Sys2Proof/Laws/Decode.lean ====
section
/-! SUPPORT. The laws of the command word: a word is its opcode and its operand half, and each field of an operand
half is read back from where the encoder puts it. -/

namespace Sys2Proof

@[simp] theorem opcodeOf_append (op : Byte) (operand : BitVec 16) : opcodeOf (op ++ operand) = op :=
  BitVec.extractLsb'_append_eq_left

@[simp] theorem operandOf_append (op : Byte) (operand : BitVec 16) : operandOf (op ++ operand) = operand :=
  BitVec.extractLsb'_append_eq_right

/-- A word is its two halves. -/
theorem word_eq_append (w : CommandWord) : w = opcodeOf w ++ operandOf w := by
  rw [opcodeOf, operandOf, BitVec.extractLsb'_append_extractLsb'_eq_extractLsb' (by rfl)]
  exact (BitVec.extractLsb'_eq_self).symm

theorem decodeWord_append (op : Byte) (operand : BitVec 16) :
    decodeWord (op ++ operand) = decodeFields op operand := by
  rw [decodeWord, opcodeOf_append, operandOf_append]

@[simp] theorem lowByteOf_append (hi lo : Byte) : lowByteOf (hi ++ lo) = lo :=
  BitVec.extractLsb'_append_eq_right

@[simp] theorem lowByteOf_setdp (hi : BitVec 7) (on : Bool) (digit : Byte) :
    lowByteOf (hi ++ BitVec.ofBool on ++ digit) = digit := BitVec.extractLsb'_append_eq_right

@[simp] theorem onBitOf_setdp (hi : BitVec 7) (on : Bool) (digit : Byte) :
    onBitOf (hi ++ BitVec.ofBool on ++ digit) = on := by
  have h := BitVec.getLsbD_append (x := hi ++ BitVec.ofBool on) (y := digit) (i := 8)
  have h' := BitVec.getLsbD_append (x := hi) (y := BitVec.ofBool on) (i := 0)
  rw [onBitOf, ← BitVec.getLsbD_eq_getElem]
  refine h.trans ?_
  rw [if_neg (by omega)]
  refine h'.trans ?_
  cases on <;> rfl

end Sys2Proof
end

