-- ==== Sys2Proof/Laws/Gpio.lean ====
section
/-! SUPPORT. The laws of the GPIO operations: what a list of writes does to the state as a whole, to the trace, and
to each line latch (the last write to a wired pin wins). -/

namespace Sys2Proof.Machine

/-! ## `line` under the one-field updates -/

@[simp] theorem State.line_withMemory (s : State) (v : Memory) (p : PinId) : (s.withMemory v).line p = s.line p := rfl
@[simp] theorem State.line_withCursor (s : State) (v : BitVec 5) (p : PinId) : (s.withCursor v).line p = s.line p := rfl
@[simp] theorem State.line_withActiveDigit (s : State) (v : BitVec 4) (p : PinId) :
    (s.withActiveDigit v).line p = s.line p := rfl
@[simp] theorem State.line_withEnabled (s : State) (v : Bool) (p : PinId) : (s.withEnabled v).line p = s.line p := rfl
@[simp] theorem State.line_withBlinkOff (s : State) (v : Bool) (p : PinId) : (s.withBlinkOff v).line p = s.line p := rfl
@[simp] theorem State.line_withBlinkInterval (s : State) (v : Word32) (p : PinId) :
    (s.withBlinkInterval v).line p = s.line p := rfl
@[simp] theorem State.line_withBlinkTimer (s : State) (v : Word32) (p : PinId) :
    (s.withBlinkTimer v).line p = s.line p := rfl
@[simp] theorem State.line_withBoot (s : State) (v : Boot) (p : PinId) : (s.withBoot v).line p = s.line p := rfl
@[simp] theorem State.line_withPorts (s : State) (v : Ports) (p : PinId) : (s.withPorts v).line p = s.line p := rfl
@[simp] theorem State.line_withPending (s : State) (v : List Ports) (p : PinId) :
    (s.withPending v).line p = s.line p := rfl
@[simp] theorem State.line_withResp (s : State) (v : Bool) (p : PinId) : (s.withResp v).line p = s.line p := rfl
@[simp] theorem State.line_withTrace (s : State) (v : List GpioCall) (p : PinId) : (s.withTrace v).line p = s.line p := rfl

/-! ## One write -/

theorem State.line_gpioWrite (s : State) (w : PinId × Level) (p : PinId) :
    (gpioWrite s w).line p = if w.1 = p ∧ p ≠ unusedPin then .driven w.2 else s.line p := by
  have hkey : (p.toNat = w.1.toNat) = (w.1 = p) := propext (by rw [BitVec.toNat_inj]; exact eq_comm)
  unfold gpioWrite
  split
  · rename_i hu
    rw [if_neg]
    rintro ⟨h1, h2⟩
    exact h2 (h1 ▸ hu)
  · rename_i hu
    simp only [State.line, State.withTrace_lines, State.withLines_lines, Assoc.lookup_insert, hkey]
    by_cases h : w.1 = p
    · have : p ≠ unusedPin := h ▸ hu
      simp [h, this]
    · simp [h]

@[simp] theorem gpioWrites_nil (s : State) : gpioWrites [] s = s := rfl

@[simp] theorem gpioWrites_cons (w : PinId × Level) (ws : List (PinId × Level)) (s : State) :
    gpioWrites (w :: ws) s = gpioWrites ws (gpioWrite s w) := rfl

theorem gpioWrites_append (ws vs : List (PinId × Level)) (s : State) :
    gpioWrites (ws ++ vs) s = gpioWrites vs (gpioWrites ws s) := by
  simp [gpioWrites]

/-! ## What a list of writes changes -/

/-- A list of writes changes the latches and appends its calls to the trace, and changes nothing else. -/
theorem gpioWrites_eq (ws : List (PinId × Level)) (s : State) :
    gpioWrites ws s = (s.withLines (gpioWrites ws s).lines).withTrace (s.trace ++ writeCalls ws) := by
  induction ws generalizing s with
  | nil => simp [writeCalls, State.withLines, State.withTrace]
  | cons w ws ih =>
    rw [gpioWrites_cons, ih (gpioWrite s w)]
    by_cases hu : w.1 = unusedPin
    · simp [gpioWrite, writeCalls, hu]
    · simp [gpioWrite, writeCalls, hu, State.withLines, State.withTrace]

section Frame
variable (ws : List (PinId × Level)) (s : State)
@[simp] theorem gpioWrites_config : (gpioWrites ws s).config = s.config := by rw [gpioWrites_eq]; rfl
@[simp] theorem gpioWrites_memory : (gpioWrites ws s).memory = s.memory := by rw [gpioWrites_eq]; rfl
@[simp] theorem gpioWrites_cursor : (gpioWrites ws s).cursor = s.cursor := by rw [gpioWrites_eq]; rfl
@[simp] theorem gpioWrites_activeDigit : (gpioWrites ws s).activeDigit = s.activeDigit := by
  rw [gpioWrites_eq]; rfl
@[simp] theorem gpioWrites_enabled : (gpioWrites ws s).enabled = s.enabled := by rw [gpioWrites_eq]; rfl
@[simp] theorem gpioWrites_blinkOff : (gpioWrites ws s).blinkOff = s.blinkOff := by rw [gpioWrites_eq]; rfl
@[simp] theorem gpioWrites_blinkInterval : (gpioWrites ws s).blinkInterval = s.blinkInterval := by
  rw [gpioWrites_eq]; rfl
@[simp] theorem gpioWrites_blinkTimer : (gpioWrites ws s).blinkTimer = s.blinkTimer := by rw [gpioWrites_eq]; rfl
@[simp] theorem gpioWrites_boot : (gpioWrites ws s).boot = s.boot := by rw [gpioWrites_eq]; rfl
@[simp] theorem gpioWrites_ports : (gpioWrites ws s).ports = s.ports := by rw [gpioWrites_eq]; rfl
@[simp] theorem gpioWrites_pending : (gpioWrites ws s).pending = s.pending := by rw [gpioWrites_eq]; rfl
@[simp] theorem gpioWrites_resp : (gpioWrites ws s).resp = s.resp := by rw [gpioWrites_eq]; rfl
@[simp] theorem gpioWrites_trace : (gpioWrites ws s).trace = s.trace ++ writeCalls ws := by
  rw [gpioWrites_eq]; rfl
end Frame

/-! ## The latch of a pin after a list of writes -/

/-- A pin that no write names keeps its latch. -/
theorem line_gpioWrites_of_not_mem {ws : List (PinId × Level)} {p : PinId} (h : ∀ w ∈ ws, w.1 ≠ p) (s : State) :
    (gpioWrites ws s).line p = s.line p := by
  induction ws generalizing s with
  | nil => rfl
  | cons w ws ih =>
    rw [gpioWrites_cons, ih (fun v hv => h v (List.mem_cons_of_mem _ hv)), State.line_gpioWrite, if_neg]
    exact fun hw => h w List.mem_cons_self hw.1

/-- A wired pin that is written, always with the same level, holds that level. -/
theorem line_gpioWrites_of_mem {ws : List (PinId × Level)} {p : PinId} {l : Level} (hp : p ≠ unusedPin)
    (hm : (p, l) ∈ ws) (hl : ∀ w ∈ ws, w.1 = p → w.2 = l) (s : State) :
    (gpioWrites ws s).line p = .driven l := by
  induction ws generalizing s with
  | nil => cases hm
  | cons w ws ih =>
    have hl' : ∀ v ∈ ws, v.1 = p → v.2 = l := fun v hv => hl v (List.mem_cons_of_mem _ hv)
    rw [gpioWrites_cons]
    by_cases hr : (p, l) ∈ ws
    · exact ih hr hl' _
    · have hw : w = (p, l) := ((List.mem_cons.1 hm).resolve_right hr).symm
      rw [line_gpioWrites_of_not_mem _ _, State.line_gpioWrite, if_pos ⟨by rw [hw], hp⟩, hw]
      intro v hv hvp
      exact hr (by rw [← hvp, ← hl' v hv hvp]; exact hv)

/-- The last write to a wired pin wins. -/
theorem line_gpioWrites_append_self {p : PinId} (hp : p ≠ unusedPin) (ws : List (PinId × Level)) (l : Level)
    (s : State) : (gpioWrites (ws ++ [(p, l)]) s).line p = .driven l := by
  rw [gpioWrites_append, gpioWrites_cons, gpioWrites_nil, State.line_gpioWrite, if_pos ⟨rfl, hp⟩]

/-- Every latch of the result was there before or belongs to a wired pin that was written. -/
theorem mem_lines_gpioWrites {ws : List (PinId × Level)} {s : State} {e : Nat × Level}
    (h : e ∈ (gpioWrites ws s).lines) : e ∈ s.lines ∨ ∃ w ∈ ws, w.1 ≠ unusedPin ∧ e.1 = w.1.toNat := by
  induction ws generalizing s with
  | nil => exact .inl h
  | cons w ws ih =>
    rcases ih h with h | ⟨v, hv, hu, he⟩
    · unfold gpioWrite at h
      split at h
      · exact .inl h
      · rename_i hu
        rcases Assoc.mem_insert h with rfl | h
        · exact .inr ⟨w, List.mem_cons_self, hu, rfl⟩
        · exact .inl h
    · exact .inr ⟨v, List.mem_cons_of_mem _ hv, hu, he⟩

/-- Writes keep the latches in rising order. -/
theorem rising_lines_gpioWrites {ws : List (PinId × Level)} {s : State} (h : Assoc.rising s.lines = true) :
    Assoc.rising (gpioWrites ws s).lines = true := by
  induction ws generalizing s with
  | nil => exact h
  | cons w ws ih =>
    apply ih
    unfold gpioWrite
    split
    · exact h
    · exact Assoc.rising_insert _ _ h

/-! ## Pin configuration -/

/-- Configuring pins appends to the trace and changes nothing else (R209). -/
theorem gpioConfigs_eq (ps : List PinId) (s : State) :
    gpioConfigs ps s = s.withTrace (s.trace ++ configCalls ps) := by
  induction ps generalizing s with
  | nil => simp [gpioConfigs, configCalls, State.withTrace]
  | cons p ps ih =>
    show gpioConfigs ps (gpioConfig s p) = _
    rw [ih]
    by_cases hu : p = unusedPin
    · simp [gpioConfig, configCalls, hu]
    · simp [gpioConfig, configCalls, hu, State.withTrace]

/-! ## Shutdown -/

/-- Shutdown writes the latches and the trace only (R151). -/
theorem shutdown_eq (s : State) :
    shutdown s = (s.withLines (shutdown s).lines).withTrace (s.trace ++ writeCalls (shutdownWrites s.config)) :=
  gpioWrites_eq _ _

end Sys2Proof.Machine
end

