-- ==== Sys2Proof/Laws/Memory.lean ====
section
/-! SUPPORT. The laws of the display buffer: the packed view (R63) field by field, read after write, the fields
after each field store, and that every store keeps the canonical form. They hold for every buffer, canonical
or not, but where the canonical form is the subject. -/

namespace Sys2Proof.Machine

/-! ## The packed view -/

@[simp] theorem packSlot_bit7 (d b : Bool) (g : GlyphCode) : (packSlot d b g)[7] = d := by
  cases d <;> cases b <;> revert g <;> decide

@[simp] theorem packSlot_bit6 (d b : Bool) (g : GlyphCode) : (packSlot d b g)[6] = b := by
  cases d <;> cases b <;> revert g <;> decide

@[simp] theorem packSlot_bit5 (d b : Bool) (g : GlyphCode) : (packSlot d b g)[5] = false := by
  cases d <;> cases b <;> revert g <;> decide

@[simp] theorem packSlot_glyph (d b : Bool) (g : GlyphCode) : (packSlot d b g).extractLsb' 0 5 = g := by
  cases d <;> cases b <;> revert g <;> decide

@[simp] theorem storedByte_packSlot (d b : Bool) (g : GlyphCode) :
    storedByte (packSlot d b g) = packSlot d b g := by
  simp [storedByte]

@[simp] theorem storedByte_bit5 (v : Byte) : (storedByte v)[5] = false := by simp [storedByte]

@[simp] theorem storedByte_blankByte : storedByte blankByte = blankByte := by decide

/-! ## Read after write -/

theorem Memory.read_write (m : Memory) (i j : SlotIndex) (v : Byte) :
    Memory.read (Memory.write m i v) j = if j = i then storedByte v else Memory.read m j := by
  have hkey : (j.toNat = i.toNat) = (j = i) := by rw [BitVec.toNat_inj]
  unfold Memory.read Memory.write
  split
  · rename_i h
    rw [Assoc.lookup_erase]
    by_cases hj : j = i <;> simp [hj, hkey, h]
  · rw [Assoc.lookup_insert]
    by_cases hj : j = i <;> simp [hj, hkey]

theorem Memory.read_write_packSlot (m : Memory) (i j : SlotIndex) (d b : Bool) (g : GlyphCode) :
    Memory.read (Memory.write m i (packSlot d b g)) j = if j = i then packSlot d b g else Memory.read m j := by
  rw [Memory.read_write, storedByte_packSlot]

/-! ## The three fields after each field store -/

@[simp] theorem Memory.glyph_setGlyph (m : Memory) (i j : SlotIndex) (g : GlyphCode) :
    Memory.glyph (Memory.setGlyph m i g) j = if j = i then g else Memory.glyph m j := by
  unfold Memory.setGlyph Memory.glyph
  rw [Memory.read_write_packSlot]
  split <;> simp

@[simp] theorem Memory.dp_setGlyph (m : Memory) (i j : SlotIndex) (g : GlyphCode) :
    Memory.dp (Memory.setGlyph m i g) j = Memory.dp m j := by
  unfold Memory.setGlyph Memory.dp
  rw [Memory.read_write_packSlot]
  split <;> simp [*]

@[simp] theorem Memory.blink_setGlyph (m : Memory) (i j : SlotIndex) (g : GlyphCode) :
    Memory.blink (Memory.setGlyph m i g) j = Memory.blink m j := by
  unfold Memory.setGlyph Memory.blink
  rw [Memory.read_write_packSlot]
  split <;> simp [*]

@[simp] theorem Memory.glyph_setDp (m : Memory) (i j : SlotIndex) (d : Bool) :
    Memory.glyph (Memory.setDp m i d) j = Memory.glyph m j := by
  unfold Memory.setDp Memory.glyph
  rw [Memory.read_write_packSlot]
  split <;> simp [*]

@[simp] theorem Memory.dp_setDp (m : Memory) (i j : SlotIndex) (d : Bool) :
    Memory.dp (Memory.setDp m i d) j = if j = i then d else Memory.dp m j := by
  unfold Memory.setDp Memory.dp
  rw [Memory.read_write_packSlot]
  split <;> simp

@[simp] theorem Memory.blink_setDp (m : Memory) (i j : SlotIndex) (d : Bool) :
    Memory.blink (Memory.setDp m i d) j = Memory.blink m j := by
  unfold Memory.setDp Memory.blink
  rw [Memory.read_write_packSlot]
  split <;> simp [*]

@[simp] theorem Memory.glyph_setBlink (m : Memory) (i j : SlotIndex) (b : Bool) :
    Memory.glyph (Memory.setBlink m i b) j = Memory.glyph m j := by
  unfold Memory.setBlink Memory.glyph
  rw [Memory.read_write_packSlot]
  split <;> simp [*]

@[simp] theorem Memory.dp_setBlink (m : Memory) (i j : SlotIndex) (b : Bool) :
    Memory.dp (Memory.setBlink m i b) j = Memory.dp m j := by
  unfold Memory.setBlink Memory.dp
  rw [Memory.read_write_packSlot]
  split <;> simp [*]

@[simp] theorem Memory.blink_setBlink (m : Memory) (i j : SlotIndex) (b : Bool) :
    Memory.blink (Memory.setBlink m i b) j = if j = i then b else Memory.blink m j := by
  unfold Memory.setBlink Memory.blink
  rw [Memory.read_write_packSlot]
  split <;> simp

/-! ## The loops over all slots -/

theorem mem_allSlots (i : SlotIndex) : i ∈ allSlots := by revert i; decide

/-- A loop that stores `f i` in every slot `i` of `is`. -/
theorem Memory.read_foldl_write (f : SlotIndex → Byte) (is : List SlotIndex) (m : Memory) (j : SlotIndex) :
    Memory.read (is.foldl (fun acc i => Memory.write acc i (f i)) m) j =
      if j ∈ is then storedByte (f j) else Memory.read m j := by
  induction is generalizing m with
  | nil => simp
  | cons i is ih =>
    rw [List.foldl_cons, ih, Memory.read_write]
    by_cases hj : j ∈ is
    · simp [hj]
    · by_cases hi : j = i
      · simp [hi]
      · simp [hj, hi]

@[simp] theorem Memory.read_clearAll (m : Memory) (j : SlotIndex) :
    Memory.read (Memory.clearAll m) j = blankByte := by
  rw [Memory.clearAll, Memory.read_foldl_write (fun _ => blankByte), if_pos (mem_allSlots j), storedByte_blankByte]

theorem Memory.read_clearBlinks (m : Memory) (j : SlotIndex) :
    Memory.read (Memory.clearBlinks m) j = packSlot (Memory.dp m j) false (Memory.glyph m j) := by
  rw [Memory.clearBlinks, Memory.read_foldl_write, if_pos (mem_allSlots j), storedByte_packSlot]

@[simp] theorem Memory.glyph_clearAll (m : Memory) (j : SlotIndex) :
    Memory.glyph (Memory.clearAll m) j = glyphBlank := by
  rw [Memory.glyph, Memory.read_clearAll, blankByte, packSlot_glyph]

@[simp] theorem Memory.dp_clearAll (m : Memory) (j : SlotIndex) : Memory.dp (Memory.clearAll m) j = false := by
  rw [Memory.dp, Memory.read_clearAll, blankByte, packSlot_bit7]

@[simp] theorem Memory.blink_clearAll (m : Memory) (j : SlotIndex) :
    Memory.blink (Memory.clearAll m) j = false := by
  rw [Memory.blink, Memory.read_clearAll, blankByte, packSlot_bit6]

@[simp] theorem Memory.glyph_clearBlinks (m : Memory) (j : SlotIndex) :
    Memory.glyph (Memory.clearBlinks m) j = Memory.glyph m j := by
  rw [Memory.glyph, Memory.read_clearBlinks, packSlot_glyph]

@[simp] theorem Memory.dp_clearBlinks (m : Memory) (j : SlotIndex) :
    Memory.dp (Memory.clearBlinks m) j = Memory.dp m j := by
  rw [Memory.dp, Memory.read_clearBlinks, packSlot_bit7]

@[simp] theorem Memory.blink_clearBlinks (m : Memory) (j : SlotIndex) :
    Memory.blink (Memory.clearBlinks m) j = false := by
  rw [Memory.blink, Memory.read_clearBlinks, packSlot_bit6]

/-! ## The canonical form -/

theorem Memory.wf_iff (m : Memory) :
    Memory.wf m = true ↔ Assoc.rising m = true ∧
      ∀ c ∈ m, c.1 < 16 ∧ c.2 ≠ blankByte ∧ c.2[5] = false := by
  simp only [Memory.wf, Bool.and_eq_true, List.all_eq_true, decide_eq_true_eq, bne_iff_ne, Bool.not_eq_true',
    and_assoc, ne_eq]
  exact Iff.rfl

@[simp] theorem Memory.wf_nil : Memory.wf [] = true := by decide

/-- Every whole-slot write keeps the canonical form. -/
theorem Memory.wf_write {m : Memory} (i : SlotIndex) (v : Byte) (h : Memory.wf m = true) :
    Memory.wf (Memory.write m i v) = true := by
  rw [Memory.wf_iff] at h ⊢
  unfold Memory.write
  split
  · exact ⟨Assoc.rising_erase _ h.1, fun c hc => h.2 c (Assoc.mem_erase hc)⟩
  · rename_i hv
    refine ⟨Assoc.rising_insert _ _ h.1, fun c hc => ?_⟩
    rcases Assoc.mem_insert hc with rfl | hc
    · exact ⟨i.isLt, hv, storedByte_bit5 v⟩
    · exact h.2 c hc

theorem Memory.wf_setGlyph {m : Memory} (i : SlotIndex) (g : GlyphCode) (h : Memory.wf m = true) :
    Memory.wf (Memory.setGlyph m i g) = true := Memory.wf_write _ _ h

theorem Memory.wf_setDp {m : Memory} (i : SlotIndex) (d : Bool) (h : Memory.wf m = true) :
    Memory.wf (Memory.setDp m i d) = true := Memory.wf_write _ _ h

theorem Memory.wf_setBlink {m : Memory} (i : SlotIndex) (b : Bool) (h : Memory.wf m = true) :
    Memory.wf (Memory.setBlink m i b) = true := Memory.wf_write _ _ h

theorem Memory.wf_foldl_write (f : SlotIndex → Byte) (is : List SlotIndex) {m : Memory} (h : Memory.wf m = true) :
    Memory.wf (is.foldl (fun acc i => Memory.write acc i (f i)) m) = true := by
  induction is generalizing m with
  | nil => exact h
  | cons i is ih => exact ih (Memory.wf_write i (f i) h)

theorem Memory.wf_clearAll {m : Memory} (h : Memory.wf m = true) : Memory.wf (Memory.clearAll m) = true :=
  Memory.wf_foldl_write (fun _ => blankByte) allSlots h

theorem Memory.wf_clearBlinks {m : Memory} (h : Memory.wf m = true) : Memory.wf (Memory.clearBlinks m) = true :=
  Memory.wf_foldl_write _ allSlots h

/-- In canonical form, equal buffers are equal lists. -/
theorem Memory.eq_of_read_eq {m n : Memory} (hm : Memory.wf m = true) (hn : Memory.wf n = true)
    (h : ∀ i, Memory.read m i = Memory.read n i) : m = n := by
  obtain ⟨hmr, hmc⟩ := (Memory.wf_iff m).1 hm
  obtain ⟨hnr, hnc⟩ := (Memory.wf_iff n).1 hn
  have entry : ∀ {l : Memory} {j : Nat} {v : Byte}, Assoc.lookup j l = some v → (j, v) ∈ l := by
    intro l j v
    induction l with
    | nil => intro h; simp at h
    | cons c l ih =>
      rw [Assoc.lookup_cons]
      split
      · rename_i hj
        intro hv
        rw [hj, ← Option.some.inj hv]
        exact List.mem_cons_self
      · exact fun hv => List.mem_cons_of_mem _ (ih hv)
  have some_of : ∀ {l : Memory}, (∀ c ∈ l, c.1 < 16 ∧ c.2 ≠ blankByte ∧ c.2[5] = false) →
      ∀ {j : Nat} {v : Byte}, Assoc.lookup j l = some v → j < 16 ∧ v ≠ blankByte := by
    intro l hl j v hv
    have := hl _ (entry hv)
    exact ⟨this.1, this.2.1⟩
  refine Assoc.eq_of_lookup_eq hmr hnr fun j => ?_
  by_cases hj : j < 16
  · have key : (BitVec.ofNat 4 j).toNat = j := by simp; omega
    have hread := h (BitVec.ofNat 4 j)
    simp only [Memory.read, key] at hread
    cases hl : Assoc.lookup j m with
    | none =>
      cases hr : Assoc.lookup j n with
      | none => rfl
      | some v =>
        rw [hl, hr] at hread
        exact absurd hread.symm (some_of hnc hr).2
    | some v =>
      cases hr : Assoc.lookup j n with
      | none =>
        rw [hl, hr] at hread
        exact absurd hread (some_of hmc hl).2
      | some w =>
        rw [hl, hr] at hread
        exact congrArg some hread
  · cases hl : Assoc.lookup j m with
    | some v => exact absurd (some_of hmc hl).1 hj
    | none =>
      cases hr : Assoc.lookup j n with
      | some v => exact absurd (some_of hnc hr).1 hj
      | none => rfl

end Sys2Proof.Machine
end

