-- ==== Sys2Proof/Laws/Exec.lean ====
section
/-! SUPPORT. One lemma for each shared operation the meanings use, saying once everything it can do: completion
(`perform`), the operands, the blink update, the enabled refresh step, and each meaning in a valid configuration. -/

namespace Sys2Proof.Machine

/-! ## Completion -/

theorem perform_valid {s : State} (h : s.config.valid = true) (t : State) : perform s t = .next t := by
  rw [perform, if_pos h]

theorem perform_invalid {s : State} (h : s.config.valid = false) (t : State) :
    perform s t = .refused .invalidConfiguration := by
  rw [perform, if_neg (by simp [h])]

theorem perform_eq_next {s t u : State} : perform s t = .next u ↔ s.config.valid = true ∧ u = t := by
  unfold perform
  split
  · rename_i h
    simp [h, eq_comm]
  · rename_i h
    simp [h]

/-! ## Operands -/

theorem clampCursor_toNat (pos : Byte) : (clampCursor pos).toNat = min pos.toNat 16 := by
  simp only [clampCursor, bufferSize, BitVec.toNat_ofNat]
  omega

theorem slotOfDigit_some {d : Byte} (h : d.toNat < 16) : slotOfDigit d = some (BitVec.ofNat 4 d.toNat) := by
  rw [slotOfDigit, if_pos (by simpa [bufferSize] using h)]
  rfl

theorem slotOfDigit_none {d : Byte} (h : 16 ≤ d.toNat) : slotOfDigit d = none := by
  rw [slotOfDigit, if_neg (by simp [bufferSize]; omega)]

theorem slotOfCursor_some {c : BitVec 5} (h : c.toNat < 16) : slotOfCursor c = some (BitVec.ofNat 4 c.toNat) := by
  rw [slotOfCursor, if_pos (by simpa [bufferSize] using h)]
  rfl

theorem slotOfCursor_none {c : BitVec 5} (h : 16 ≤ c.toNat) : slotOfCursor c = none := by
  rw [slotOfCursor, if_neg (by simp [bufferSize]; omega)]

theorem glyphRow_some {g : GlyphCode} (h : g.toNat < 18) : glyphRow g = some ⟨g.toNat, h⟩ := by
  rw [glyphRow, dif_pos h]

theorem glyphRow_none {g : GlyphCode} (h : 18 ≤ g.toNat) : glyphRow g = none := by
  rw [glyphRow, dif_neg (by omega)]

theorem encodeChar_le (ch : Byte) : (encodeChar ch).toNat ≤ 17 := by revert ch; decide +kernel

theorem previousDigit_lt {n a : Nat} (h : a < n) : previousDigit n a < n := by
  unfold previousDigit; split <;> omega

theorem nextDigit_lt {n a : Nat} (h : 0 < n) : nextDigit n a < n := Nat.mod_lt _ h

/-- The digit before the next one is the digit itself. -/
theorem previousDigit_nextDigit {n a : Nat} (h : a < n) : previousDigit n (nextDigit n a) = a := by
  unfold previousDigit nextDigit
  by_cases hw : a + 1 = n
  · rw [hw, Nat.mod_self, if_pos rfl]; omega
  · rw [Nat.mod_eq_of_lt (by omega), if_neg (by omega)]; omega

/-! ## The blink update -/

/-- The blink update writes the phase and the timer only (R180 to R182). -/
theorem blinkUpdate_eq (s : State) :
    blinkUpdate s = (s.withBlinkOff (blinkUpdate s).blinkOff).withBlinkTimer (blinkUpdate s).blinkTimer := by
  unfold blinkUpdate
  split
  · unfold blinkUpdateWall; split <;> rfl
  · unfold blinkUpdateTick; split <;> rfl

section BlinkFrame
variable (s : State)
@[simp] theorem blinkUpdate_config : (blinkUpdate s).config = s.config := by rw [blinkUpdate_eq]; rfl
@[simp] theorem blinkUpdate_memory : (blinkUpdate s).memory = s.memory := by rw [blinkUpdate_eq]; rfl
@[simp] theorem blinkUpdate_cursor : (blinkUpdate s).cursor = s.cursor := by rw [blinkUpdate_eq]; rfl
@[simp] theorem blinkUpdate_activeDigit : (blinkUpdate s).activeDigit = s.activeDigit := by
  rw [blinkUpdate_eq]; rfl
@[simp] theorem blinkUpdate_enabled : (blinkUpdate s).enabled = s.enabled := by rw [blinkUpdate_eq]; rfl
@[simp] theorem blinkUpdate_blinkInterval : (blinkUpdate s).blinkInterval = s.blinkInterval := by
  rw [blinkUpdate_eq]; rfl
@[simp] theorem blinkUpdate_lines : (blinkUpdate s).lines = s.lines := by rw [blinkUpdate_eq]; rfl
@[simp] theorem blinkUpdate_boot : (blinkUpdate s).boot = s.boot := by rw [blinkUpdate_eq]; rfl
@[simp] theorem blinkUpdate_ports : (blinkUpdate s).ports = s.ports := by rw [blinkUpdate_eq]; rfl
@[simp] theorem blinkUpdate_pending : (blinkUpdate s).pending = s.pending := by rw [blinkUpdate_eq]; rfl
@[simp] theorem blinkUpdate_resp : (blinkUpdate s).resp = s.resp := by rw [blinkUpdate_eq]; rfl
@[simp] theorem blinkUpdate_trace : (blinkUpdate s).trace = s.trace := by rw [blinkUpdate_eq]; rfl
@[simp] theorem blinkUpdate_line (p : PinId) : (blinkUpdate s).line p = s.line p := by rw [blinkUpdate_eq]; rfl
end BlinkFrame

/-- Wall-clock mode (R181), the difference as a number. -/
theorem blinkUpdate_wall {s : State} (h : s.config.timebase = .wallClock) :
    ((blinkUpdate s).blinkOff, (blinkUpdate s).blinkTimer) =
      if s.blinkInterval.toNat ≤ (s.ports.now - s.blinkTimer).toNat then (!s.blinkOff, s.ports.now)
      else (s.blinkOff, s.blinkTimer) := by
  simp only [blinkUpdate, h, blinkUpdateWall, BitVec.le_def]
  split <;> rfl

/-- Tick-count mode (R182). -/
theorem blinkUpdate_tick {s : State} (h : s.config.timebase = .tickCount) :
    ((blinkUpdate s).blinkOff, (blinkUpdate s).blinkTimer) =
      if s.blinkInterval.toNat ≤ (s.blinkTimer + 1).toNat then (!s.blinkOff, 0)
      else (s.blinkOff, s.blinkTimer + 1) := by
  simp only [blinkUpdate, h, blinkUpdateTick, BitVec.le_def]
  split <;> rfl

/-! ## The refresh step -/

/-- An enabled refresh step that runs is a scan of the active digit after the blink update (R155). -/
theorem refreshEnabled_eq_next {s t : State} :
    refreshEnabled s = .next t ↔ s.activeDigit.toNat < s.config.displaysCount ∧
      ∃ g, glyphRow (effectiveGlyph (blinkUpdate s) s.activeDigit) = some g ∧
        t = answer false (scanDigit g (blinkUpdate s)) := by
  unfold refreshEnabled
  split
  · rename_i h
    simp only [reduceCtorEq, false_iff, not_and]
    exact fun h' => absurd h' (by omega)
  · rename_i h
    have h' : s.activeDigit.toNat < s.config.displaysCount := by omega
    split
    · rename_i hg; simp [hg]
    · rename_i g hg
      simp [hg, h', eq_comm]

/-- The scan of a digit as one update of the latches, the trace and the active digit. -/
theorem scanDigit_eq (g : Fin 18) (s : State) :
    scanDigit g s = (gpioWrites (refreshWrites s.config s.activeDigit.toNat (s.config.segmentMaskOf g)
      (Memory.dp s.memory s.activeDigit)) s).withActiveDigit
        (BitVec.ofNat 4 (nextDigit s.config.displaysCount s.activeDigit.toNat)) := rfl

/-- Where a glyph code is legal, so is the effective glyph, with the row that is shown. -/
theorem effectiveGlyph_row {s : State} {a : SlotIndex} (h : (Memory.glyph s.memory a).toNat ≤ 17) :
    ∃ g, glyphRow (effectiveGlyph s a) = some g := by
  unfold effectiveGlyph
  split
  · exact ⟨_, glyphRow_some (g := glyphBlank) (by decide)⟩
  · exact ⟨_, glyphRow_some (by omega)⟩

/-! ## The answer of an event -/

/-- Each instruction in a valid configuration, in one place: what it answers. -/
theorem exec_begin {s : State} (h : s.config.valid = true) :
    exec .begin s = .next (answer false (((((shutdown (gpioConfigs (configuredPins s.config) s)).withMemory
      (Memory.clearAll s.memory)).withCursor 0).withEnabled true).withBoot .begun)) := by
  have hm : (shutdown (gpioConfigs (configuredPins s.config) s)).memory = s.memory := by
    rw [shutdown, gpioWrites_memory, gpioConfigs_eq]; rfl
  rw [← hm]
  exact perform_valid h _

theorem exec_clear {s : State} (h : s.config.valid = true) :
    exec .clear s = .next (answer false ((s.withMemory (Memory.clearAll s.memory)).withCursor 0)) :=
  perform_valid h _

theorem exec_home {s : State} (h : s.config.valid = true) :
    exec .home s = .next (answer false (s.withCursor 0)) := perform_valid h _

theorem exec_setcursor {s : State} (h : s.config.valid = true) (pos : Byte) :
    exec (.setcursor pos) s = .next (answer false (s.withCursor (clampCursor pos))) := perform_valid h _

theorem exec_write_full {s : State} (h : s.config.valid = true) (hc : 16 ≤ s.cursor.toNat) (ch : Byte) :
    exec (.write ch) s = .next (answer false s) := by
  rw [exec, execWrite, slotOfCursor_none hc]
  exact perform_valid h _

theorem exec_write {s : State} (h : s.config.valid = true) (hc : s.cursor.toNat < 16) (ch : Byte) :
    exec (.write ch) s = .next (answer true ((s.withMemory
      (Memory.setGlyph s.memory (BitVec.ofNat 4 s.cursor.toNat) (encodeChar ch))).withCursor (s.cursor + 1))) := by
  rw [exec, execWrite, slotOfCursor_some hc]
  exact perform_valid h _

theorem exec_setdp_out {s : State} (h : s.config.valid = true) {d : Byte} (hd : 16 ≤ d.toNat) (on : Bool) :
    exec (.setdp d on) s = .next (answer false s) := by
  rw [exec, execSetdp, slotOfDigit_none hd]
  exact perform_valid h _

theorem exec_setdp {s : State} (h : s.config.valid = true) {d : Byte} (hd : d.toNat < 16) (on : Bool) :
    exec (.setdp d on) s = .next (answer false (s.withMemory
      (Memory.setDp s.memory (BitVec.ofNat 4 d.toNat) on))) := by
  rw [exec, execSetdp, slotOfDigit_some hd]
  exact perform_valid h _

theorem exec_blinkdigit_out {s : State} (h : s.config.valid = true) {d : Byte} (hd : 16 ≤ d.toNat) :
    exec (.blinkdigit d) s = .next (answer false s) := by
  rw [exec, execBlinkdigit, slotOfDigit_none hd]
  exact perform_valid h _

theorem exec_blinkdigit {s : State} (h : s.config.valid = true) {d : Byte} (hd : d.toNat < 16) :
    exec (.blinkdigit d) s = .next (answer false (s.withMemory
      (Memory.setBlink s.memory (BitVec.ofNat 4 d.toNat) true))) := by
  rw [exec, execBlinkdigit, slotOfDigit_some hd]
  exact perform_valid h _

theorem exec_noblinkdigit_out {s : State} (h : s.config.valid = true) {d : Byte} (hd : 16 ≤ d.toNat) :
    exec (.noblinkdigit d) s = .next (answer false s) := by
  rw [exec, execNoblinkdigit, slotOfDigit_none hd]
  exact perform_valid h _

theorem exec_noblinkdigit {s : State} (h : s.config.valid = true) {d : Byte} (hd : d.toNat < 16) :
    exec (.noblinkdigit d) s = .next (answer false (s.withMemory
      (Memory.setBlink s.memory (BitVec.ofNat 4 d.toNat) false))) := by
  rw [exec, execNoblinkdigit, slotOfDigit_some hd]
  exact perform_valid h _

theorem exec_noblink {s : State} (h : s.config.valid = true) :
    exec .noblink s = .next (answer false (s.withMemory (Memory.clearBlinks s.memory))) := perform_valid h _

theorem exec_display {s : State} (h : s.config.valid = true) :
    exec .display s = .next (answer false (s.withEnabled true)) := perform_valid h _

theorem exec_nodisplay {s : State} (h : s.config.valid = true) :
    exec .nodisplay s = .next (answer false ((((shutdown s).withActiveDigit 0).withEnabled false).withBoot s.boot.afterShutdown)) :=
  perform_valid h _

theorem exec_setblinkinterval {s : State} (h : s.config.valid = true) (ms : BitVec 16) :
    exec (.setblinkinterval ms) s = .next (answer false (s.withBlinkInterval (s.config.intervalOf ms))) :=
  perform_valid h _

theorem exec_refresh_disabled {s : State} (h : s.config.valid = true) (he : s.enabled = false) :
    exec .refresh s = .next (answer false s) := by
  rw [exec, execRefresh, if_pos h, if_neg (by simp [he])]

theorem exec_refresh_enabled {s : State} (h : s.config.valid = true) (he : s.enabled = true) :
    exec .refresh s = refreshEnabled s := by
  rw [exec, execRefresh, if_pos h, if_pos he]

/-- The enabled refresh step where nothing is out of range (R155). -/
theorem exec_refresh {s : State} (h : s.config.valid = true) (he : s.enabled = true)
    (ha : s.activeDigit.toNat < s.config.displaysCount) {g : Fin 18}
    (hg : glyphRow (effectiveGlyph (blinkUpdate s) s.activeDigit) = some g) :
    exec .refresh s = .next (answer false (scanDigit g (blinkUpdate s))) := by
  rw [exec_refresh_enabled h he]
  exact refreshEnabled_eq_next.2 ⟨ha, g, hg, rfl⟩

/-- An invalid configuration is refused by every instruction (R7, U3). -/
theorem exec_invalid {s : State} (h : s.config.valid = false) (i : Instr) :
    exec i s = .refused .invalidConfiguration := by
  have hp : ∀ t, perform s t = .refused .invalidConfiguration := perform_invalid h
  cases i with
  | begin => exact hp _
  | clear => exact hp _
  | home => exact hp _
  | setcursor pos => exact hp _
  | write ch => rw [exec, execWrite]; split <;> exact hp _
  | setdp d on => rw [exec, execSetdp]; split <;> exact hp _
  | blinkdigit d => rw [exec, execBlinkdigit]; split <;> exact hp _
  | noblinkdigit d => rw [exec, execNoblinkdigit]; split <;> exact hp _
  | noblink => exact hp _
  | display => exact hp _
  | nodisplay => exact hp _
  | setblinkinterval ms => exact hp _
  | refresh => rw [exec, execRefresh, if_neg (by simp [h])]

/-- An instruction that answers a next state ran in a valid configuration. -/
theorem valid_of_exec_next {i : Instr} {s t : State} (h : exec i s = .next t) : s.config.valid = true := by
  by_contra hv
  rw [exec_invalid (by simpa using hv)] at h
  cases h

/-- Everything an instruction can do: if it answers `t`, then `t` is one of these. -/
theorem exec_cases {i : Instr} {s t : State} (h : exec i s = .next t) :
    (∃ m c r, isBufferCommand i = true ∧ t = answer r ((s.withMemory m).withCursor c)) ∨
    (i = .begin ∧ t = answer false (((((shutdown (gpioConfigs (configuredPins s.config) s)).withMemory
      (Memory.clearAll s.memory)).withCursor 0).withEnabled true).withBoot .begun)) ∨
    (i = .display ∧ t = answer false (s.withEnabled true)) ∨
    (i = .nodisplay ∧ t = answer false ((((shutdown s).withActiveDigit 0).withEnabled false).withBoot s.boot.afterShutdown)) ∨
    (∃ ms, i = .setblinkinterval ms ∧ t = answer false (s.withBlinkInterval (s.config.intervalOf ms))) ∨
    (i = .refresh ∧ s.enabled = false ∧ t = answer false s) ∨
    (i = .refresh ∧ s.enabled = true ∧ s.activeDigit.toNat < s.config.displaysCount ∧
      ∃ g, glyphRow (effectiveGlyph (blinkUpdate s) s.activeDigit) = some g ∧
        t = answer false (scanDigit g (blinkUpdate s))) := by
  have hv := valid_of_exec_next h
  cases i with
  | begin => rw [exec_begin hv] at h; exact .inr (.inl ⟨rfl, (Host.Outcome.next.inj h).symm⟩)
  | clear => rw [exec_clear hv] at h; exact .inl ⟨_, _, _, rfl, (Host.Outcome.next.inj h).symm⟩
  | home => rw [exec_home hv] at h; exact .inl ⟨s.memory, _, _, rfl, (Host.Outcome.next.inj h).symm⟩
  | setcursor pos =>
    rw [exec_setcursor hv] at h; exact .inl ⟨s.memory, _, _, rfl, (Host.Outcome.next.inj h).symm⟩
  | write ch =>
    by_cases hc : s.cursor.toNat < 16
    · rw [exec_write hv hc] at h; exact .inl ⟨_, _, _, rfl, (Host.Outcome.next.inj h).symm⟩
    · rw [exec_write_full hv (by omega)] at h
      exact .inl ⟨s.memory, s.cursor, _, rfl, (Host.Outcome.next.inj h).symm⟩
  | setdp d on =>
    by_cases hd : d.toNat < 16
    · rw [exec_setdp hv hd] at h
      exact .inl ⟨Memory.setDp s.memory (BitVec.ofNat 4 d.toNat) on, s.cursor, _, rfl, (Host.Outcome.next.inj h).symm⟩
    · rw [exec_setdp_out hv (by omega)] at h
      exact .inl ⟨s.memory, s.cursor, _, rfl, (Host.Outcome.next.inj h).symm⟩
  | blinkdigit d =>
    by_cases hd : d.toNat < 16
    · rw [exec_blinkdigit hv hd] at h
      exact .inl ⟨Memory.setBlink s.memory (BitVec.ofNat 4 d.toNat) true, s.cursor, _, rfl, (Host.Outcome.next.inj h).symm⟩
    · rw [exec_blinkdigit_out hv (by omega)] at h
      exact .inl ⟨s.memory, s.cursor, _, rfl, (Host.Outcome.next.inj h).symm⟩
  | noblinkdigit d =>
    by_cases hd : d.toNat < 16
    · rw [exec_noblinkdigit hv hd] at h
      exact .inl ⟨Memory.setBlink s.memory (BitVec.ofNat 4 d.toNat) false, s.cursor, _, rfl, (Host.Outcome.next.inj h).symm⟩
    · rw [exec_noblinkdigit_out hv (by omega)] at h
      exact .inl ⟨s.memory, s.cursor, _, rfl, (Host.Outcome.next.inj h).symm⟩
  | noblink =>
    rw [exec_noblink hv] at h
    exact .inl ⟨Memory.clearBlinks s.memory, s.cursor, _, rfl, (Host.Outcome.next.inj h).symm⟩
  | display => rw [exec_display hv] at h; exact .inr (.inr (.inl ⟨rfl, (Host.Outcome.next.inj h).symm⟩))
  | nodisplay => rw [exec_nodisplay hv] at h; exact .inr (.inr (.inr (.inl ⟨rfl, (Host.Outcome.next.inj h).symm⟩)))
  | setblinkinterval ms =>
    rw [exec_setblinkinterval hv] at h
    exact .inr (.inr (.inr (.inr (.inl ⟨ms, rfl, (Host.Outcome.next.inj h).symm⟩))))
  | refresh =>
    by_cases he : s.enabled = true
    · rw [exec_refresh_enabled hv he] at h
      obtain ⟨ha, hg⟩ := refreshEnabled_eq_next.1 h
      exact .inr (.inr (.inr (.inr (.inr (.inr ⟨rfl, he, ha, hg⟩)))))
    · rw [exec_refresh_disabled hv (by simpa using he)] at h
      exact .inr (.inr (.inr (.inr (.inr (.inl ⟨rfl, by simpa using he, (Host.Outcome.next.inj h).symm⟩)))))

/-- No instruction writes the configuration, the input ports or what is still to come on them (R30). -/
theorem exec_keeps_inputs {i : Instr} {s t : State} (h : exec i s = .next t) :
    t.config = s.config ∧ t.ports = s.ports ∧ t.pending = s.pending := by
  rcases exec_cases h with ⟨m, c, r, -, rfl⟩ | ⟨-, rfl⟩ | ⟨-, rfl⟩ | ⟨-, rfl⟩ | ⟨ms, -, rfl⟩ | ⟨-, -, rfl⟩ |
    ⟨-, -, -, g, -, rfl⟩ <;>
    simp [answer, shutdown, gpioConfigs_eq, scanDigit_eq]

end Sys2Proof.Machine
end

