-- ==== Sys2Proof/Laws/PerInstr.lean ====
section
/-! SUPPORT. Per-instruction families. `EncodingRow`: the encoded word of an instruction matches its row of the opcode
map under the mask `0xFF0000` (30_encoding.md R92), and every operand bit without a field is 0 (R98). -/

namespace Sys2Proof.Laws

/-- The word is selected by the row of its opcode, and the ignored operand bits are written as 0. -/
def EncodingRow.Statement (i : Instr) : Prop :=
  encode i &&& 0xFF0000#24 = i.opcode ++ 0#16 ∧ encode i &&& (0#8 ++ ~~~ i.fieldMask : BitVec 24) = 0#24

theorem EncodingRow.begin : EncodingRow.Statement .begin := by
  unfold EncodingRow.Statement; decide
theorem EncodingRow.clear : EncodingRow.Statement .clear := by
  unfold EncodingRow.Statement; decide
theorem EncodingRow.home : EncodingRow.Statement .home := by
  unfold EncodingRow.Statement; decide
theorem EncodingRow.setcursor (pos : Byte) : EncodingRow.Statement (.setcursor pos) := by
  unfold EncodingRow.Statement; revert pos; decide +kernel
theorem EncodingRow.write (ch : Byte) : EncodingRow.Statement (.write ch) := by
  unfold EncodingRow.Statement; revert ch; decide +kernel
theorem EncodingRow.setdp (digit : Byte) (on : Bool) : EncodingRow.Statement (.setdp digit on) := by
  unfold EncodingRow.Statement; revert digit on; decide +kernel
theorem EncodingRow.blinkdigit (digit : Byte) : EncodingRow.Statement (.blinkdigit digit) := by
  unfold EncodingRow.Statement; revert digit; decide +kernel
theorem EncodingRow.noblinkdigit (digit : Byte) : EncodingRow.Statement (.noblinkdigit digit) := by
  unfold EncodingRow.Statement; revert digit; decide +kernel
theorem EncodingRow.noblink : EncodingRow.Statement .noblink := by
  unfold EncodingRow.Statement; decide
theorem EncodingRow.display : EncodingRow.Statement .display := by
  unfold EncodingRow.Statement; decide
theorem EncodingRow.nodisplay : EncodingRow.Statement .nodisplay := by
  unfold EncodingRow.Statement; decide
theorem EncodingRow.setblinkinterval (ms : BitVec 16) : EncodingRow.Statement (.setblinkinterval ms) := by
  unfold EncodingRow.Statement
  constructor
  · apply BitVec.eq_of_getLsbD_eq
    intro k hk
    simp only [encode, Instr.opcode, Instr.operand, BitVec.getLsbD_and, BitVec.getLsbD_append]
    by_cases h : k < 16
    · have : (0xFF0000#24).getLsbD k = false := by revert h; revert k; decide
      simp [h, this]
    · have : (0xFF0000#24).getLsbD k = true := by revert h; revert hk; revert k; decide
      simp [h, this]
  · simp [Instr.fieldMask]
theorem EncodingRow.refresh : EncodingRow.Statement .refresh := by
  unfold EncodingRow.Statement; decide

end Sys2Proof.Laws
end

