-- ==== Sys2Proof/Laws/Step.lean ====
section
/-! SUPPORT. What a step can do, said once: it samples the input ports, performs the command presented, then the tick
presented; and the rule every invariant proof goes through. -/

namespace Sys2Proof.Machine

section SampleFrame
variable (s : State)
@[simp] theorem sample_config : (sample s).config = s.config := rfl
@[simp] theorem sample_memory : (sample s).memory = s.memory := rfl
@[simp] theorem sample_cursor : (sample s).cursor = s.cursor := rfl
@[simp] theorem sample_activeDigit : (sample s).activeDigit = s.activeDigit := rfl
@[simp] theorem sample_enabled : (sample s).enabled = s.enabled := rfl
@[simp] theorem sample_blinkOff : (sample s).blinkOff = s.blinkOff := rfl
@[simp] theorem sample_blinkInterval : (sample s).blinkInterval = s.blinkInterval := rfl
@[simp] theorem sample_blinkTimer : (sample s).blinkTimer = s.blinkTimer := rfl
@[simp] theorem sample_lines : (sample s).lines = s.lines := rfl
@[simp] theorem sample_boot : (sample s).boot = s.boot := rfl
@[simp] theorem sample_ports : (sample s).ports = nextPorts s := rfl
@[simp] theorem sample_pending : (sample s).pending = s.pending.tail := rfl
@[simp] theorem sample_resp : (sample s).resp = s.resp := rfl
@[simp] theorem sample_trace : (sample s).trace = [] := rfl
@[simp] theorem sample_line (p : PinId) : (sample s).line p = s.line p := rfl
end SampleFrame

theorem andThen_eq_next {o : Answer} {f : State → Answer} {t : State} :
    andThen o f = .next t ↔ ∃ u, o = .next u ∧ f u = .next t := by
  cases o <;> simp [andThen]

/-- What the command port can do in a step (R97, R105). -/
theorem commandPhase_cases {s u : State} (h : commandPhase s = .next u) :
    (s.ports.cmdValid = false ∧ u = s) ∨
    (s.ports.cmdValid = true ∧ ∃ i, decodeWord s.ports.cmd = .ok i ∧ exec i s = .next u) ∨
    (s.ports.cmdValid = true ∧ ∃ e, decodeWord s.ports.cmd = .error e ∧ u = answer false s) := by
  unfold commandPhase at h
  split at h
  · rename_i hv
    unfold performCommand at h
    split at h
    · rename_i i hi; exact .inr (.inl ⟨hv, i, hi, h⟩)
    · rename_i e he; exact .inr (.inr ⟨hv, e, he, (Host.Outcome.next.inj h).symm⟩)
  · rename_i hv
    exact .inl ⟨by simpa using hv, (Host.Outcome.next.inj h).symm⟩

/-- What the tick input can do in a step (R105). -/
theorem tickPhase_cases {u t : State} (h : tickPhase u = .next t) :
    (u.ports.refreshTick = false ∧ t = u) ∨
    (u.ports.refreshTick = true ∧ ∃ v, exec .refresh u = .next v ∧
      t = if u.ports.cmdValid then v.withResp u.resp else v) := by
  unfold tickPhase at h
  split at h
  · rename_i hr
    cases hx : exec .refresh u with
    | next v => rw [hx] at h; exact .inr ⟨hr, v, rfl, (Host.Outcome.next.inj h).symm⟩
    | fault r => rw [hx] at h; cases h
    | refused r => rw [hx] at h; cases h
  · rename_i hr
    exact .inl ⟨by simpa using hr, (Host.Outcome.next.inj h).symm⟩

/-- A step that answers a next state: the command phase from the sampled state, then the tick phase. -/
theorem step_cases {s t : State} (h : step s = .next t) :
    s.config.valid = true ∧ ∃ u, commandPhase (sample s) = .next u ∧ tickPhase u = .next t := by
  unfold step performStep at h
  split at h
  · rename_i hv; exact ⟨hv, andThen_eq_next.1 h⟩
  · cases h

theorem step_valid {s : State} (h : s.config.valid = true) :
    step s = andThen (commandPhase (sample s)) tickPhase := by
  rw [step, performStep, if_pos h]

/-- A property that sampling, an answer and every instruction keep is kept by every step. -/
theorem step_keeps {P : State → Prop} (hsample : ∀ s, P s → P (sample s))
    (hresp : ∀ s r, P s → P (s.withResp r))
    (hexec : ∀ i s t, P s → exec i s = .next t → P t) {s t : State} (hP : P s) (h : step s = .next t) : P t := by
  obtain ⟨-, u, hu, ht⟩ := step_cases h
  have hPu : P u := by
    rcases commandPhase_cases hu with ⟨-, rfl⟩ | ⟨-, i, -, hi⟩ | ⟨-, e, -, rfl⟩
    · exact hsample s hP
    · exact hexec i _ _ (hsample s hP) hi
    · exact hresp _ _ (hsample s hP)
  rcases tickPhase_cases ht with ⟨-, rfl⟩ | ⟨-, v, hv, rfl⟩
  · exact hPu
  · have hPv := hexec .refresh _ _ hPu hv
    split
    · exact hresp _ _ hPv
    · exact hPv

/-- A run of one step more, on any machine. -/
theorem core_run_succ {M : Host.Core} {s t : M.State} (h : M.step s = .next t) (n : Nat) :
    M.run (n + 1) s = M.run n t := by
  rw [Host.Core.run, h]

/-- A run of one step more: the step, then the run from where it leads. -/
theorem run_succ {s t : State} (h : step s = .next t) (n : Nat) :
    Host.Core.run Sys2Proof.core (n + 1) s = Host.Core.run Sys2Proof.core n t :=
  core_run_succ (M := Sys2Proof.core) h n

end Sys2Proof.Machine
end

