-- ==== Sys2Proof/Tests/Slice0.lean ====
section
/-! SUPPORT. Our own tests: the decoder on words written out from 30_encoding.md R92 and R108 and from
95_test_vectors.md V4, the configuration checks on ill-formed terms, and one step of each instruction on the
states of the test vectors V3 to V10. Every expected value is the spec's. -/

namespace Sys2Proof.Tests
open Sys2Proof Sys2Proof.Machine

/-! ## The configuration checks (R7): one ill-formed term for each -/

theorem test_k4_valid : Config.k4.valid = true := by decide

theorem test_no_digit_refused :
    Config.countOk { Config.k4 with displaysCount := 0, commonDriverPins := [] } = false := by decide

theorem test_seventeen_digits_refused :
    Config.countOk { Config.k4 with displaysCount := 17 } = false := by decide

theorem test_commons_of_another_length_refused :
    Config.commonsOk { Config.k4 with commonDriverPins := [10, 11, 12] } = false := by decide

theorem test_seven_segment_pins_refused :
    Config.segmentsOk { Config.k4 with segmentPins := [0, 1, 2, 3, 4, 5, 6] } = false := by decide

theorem test_shared_pin_refused :
    Config.pinsDistinct { Config.k4 with commonDriverPins := [10, 11, 12, 7] } = false := by decide

theorem test_two_unused_pins_admitted :
    Config.valid { Config.k4 with commonDriverPins := [10, 0xFF, 12, 0xFF] } = true := by decide

theorem test_zero_substitute_refused :
    Config.defaultPeriodOk { Config.k4 with defaultTickPeriodMicros := 0 } = false := by decide

theorem test_invalid_config_has_no_state :
    State.construct { Config.k4 with displaysCount := 5 } = none := by decide

/-! ## Decoding: every constructor, from words written out by hand (R92, R108, V4) -/

theorem test_decode_begin : decodeWord 0x010000#24 = .ok .begin := by decide
theorem test_decode_clear_ignores_operand : decodeWord 0x02FFFF#24 = .ok .clear := by decide
theorem test_decode_home : decodeWord 0x030000#24 = .ok .home := by decide
theorem test_decode_setcursor_ignores_high : decodeWord 0x04AB03#24 = .ok (.setcursor 3) := by decide
theorem test_decode_write_ignores_high : decodeWord 0x05FF41#24 = .ok (.write 0x41) := by decide
theorem test_decode_setdp_on : decodeWord 0x060101#24 = .ok (.setdp 1 true) := by decide
theorem test_decode_setdp_bit8_off : decodeWord 0x06FE05#24 = .ok (.setdp 5 false) := by decide
theorem test_decode_setdp_bit8_on : decodeWord 0x06FF05#24 = .ok (.setdp 5 true) := by decide
theorem test_decode_blinkdigit : decodeWord 0x070002#24 = .ok (.blinkdigit 2) := by decide
theorem test_decode_noblinkdigit : decodeWord 0x08000F#24 = .ok (.noblinkdigit 15) := by decide
theorem test_decode_noblink : decodeWord 0x090000#24 = .ok .noblink := by decide
theorem test_decode_display_ignores_operand : decodeWord 0x0AFFFF#24 = .ok .display := by decide
theorem test_decode_nodisplay : decodeWord 0x0B0000#24 = .ok .nodisplay := by decide
theorem test_decode_setblinkinterval : decodeWord 0x0C012C#24 = .ok (.setblinkinterval 300) := by decide
theorem test_decode_refresh : decodeWord 0x0D0000#24 = .ok .refresh := by decide
theorem test_decode_zero_reserved : decodeWord 0x000000#24 = .error (.reservedOpcode 0x00) := by decide
theorem test_decode_0E_reserved : decodeWord 0x0E0000#24 = .error (.reservedOpcode 0x0E) := by decide
theorem test_decode_FF_reserved : decodeWord 0xFFFFFF#24 = .error (.reservedOpcode 0xFF) := by decide

theorem test_decode_bytes_opcode_first :
    decodeBytes [0x0C, 0x01, 0x2C, 0x99] = .ok (.setblinkinterval 300, [0x99]) := by decide

theorem test_decode_bytes_truncated : decodeBytes [0x0C, 0x01] = .error .truncated := by decide

theorem test_encode_setdp : encode (.setdp 1 true) = 0x060101#24 := by decide

/-! ## The glyph encoder (V1, V2) -/

theorem test_encode_boundaries :
    [0x2F, 0x30, 0x39, 0x3A, 0x40, 0x41, 0x46, 0x47, 0x60, 0x61, 0x66, 0x67, 0x20, 0x2D, 0x2E, 0x80].map
      (fun ch => (encodeChar (BitVec.ofNat 8 ch)).toNat)
    = [17, 0, 9, 17, 17, 10, 15, 17, 17, 10, 15, 17, 16, 17, 17, 17] := by decide

theorem test_mask_of_dash : Config.k4.segmentMaskOf 17 = 0x40#8 := by decide

theorem test_code_18_has_no_row : glyphRow 18 = none := by decide

/-! ## One step -/

/-- The state after the next step, when there is one. -/
def after (s : State) : Option State :=
  match step s with
  | .next t => some t
  | _ => none

/-- The state after the step that performs command word `w`. -/
def afterWord (w : Nat) (s : State) : Option State := after (s.withFetchWord 24 w)

/-- `K4` with slot `i` holding the packed byte `v`, enabled. -/
def shown (i : SlotIndex) (v : Byte) : State :=
  { State.reset with memory := Memory.write [] i v, enabled := true, activeDigit := i }

theorem test_begin_trace_V5a :
    (afterWord 0x010000 State.reset).map (·.trace) = some
      ([0, 1, 2, 3, 4, 5, 6, 7, 10, 11, 12, 13].map (GpioCall.configureOutput ·) ++
       [10, 11, 12, 13, 0, 1, 2, 3, 4, 5, 6, 7].map (GpioCall.writeLevel · false)) := by decide

theorem test_begin_keeps_timer_V5b :
    (afterWord 0x010000 { shown 2 0xC2 with cursor := 3, blinkOff := true, blinkTimer := 777, blinkInterval := 50 }).map
      (fun t => (t.memory, t.activeDigit, t.blinkOff, t.blinkTimer, t.blinkInterval))
    = some ([], 2, true, 777, 50) := by decide

theorem test_clear_P4 :
    (afterWord 0x020000 { shown 15 0x91 with cursor := 9 }).map (fun t => (t.memory, t.cursor, t.enabled, t.trace))
    = some ([], 0, true, []) := by decide

theorem test_home_V3a :
    (afterWord 0x030000 { shown 1 0x82 with cursor := 5 }).map (fun t => (t.cursor, t.memory, t.resp))
    = some (0, [(1, 0x82)], false) := by decide

theorem test_setcursor_clamps_V3f :
    (afterWord 0x0400C8 State.reset).map (·.cursor) = some 16 := by decide

theorem test_setcursor_last_slot_V3c :
    (afterWord 0x04000F State.reset).map (·.cursor) = some 15 := by decide

theorem test_write_keeps_flags_V3h :
    (afterWord 0x05002D { shown 15 0xC8 with cursor := 15 }).map (fun t => (t.memory, t.cursor, t.resp))
    = some ([(15, 0xD1)], 16, true) := by decide

theorem test_write_refused_V3i :
    (afterWord 0x050031 { shown 15 0xC8 with cursor := 16, resp := true }).map
      (fun t => (t.memory, t.cursor, t.resp)) = some ([(15, 0xC8)], 16, false) := by decide

theorem test_setdp_beyond_display_V3t :
    (afterWord 0x060109 State.reset).map (·.memory) = some [(9, 0x90)] := by decide

theorem test_setdp_out_of_range_V3m :
    (afterWord 0x060110 State.reset).map (·.memory) = some [] := by decide

theorem test_blinkdigit_V3o :
    (afterWord 0x07000F (shown 15 0x8F)).map (·.memory) = some [(15, 0xCF)] := by decide

theorem test_blinkdigit_out_of_range_V3n :
    (afterWord 0x0700FF (shown 15 0x8F)).map (·.memory) = some [(15, 0x8F)] := by decide

theorem test_noblinkdigit_V3p :
    (afterWord 0x08000F (shown 15 0xCF)).map (·.memory) = some [(15, 0x8F)] := by decide

theorem test_noblink_V3r :
    (afterWord 0x090000 { shown 0 0x41 with memory := [(0, 0x41), (5, 0xC2)], cursor := 2 }).map
      (fun t => (t.memory, t.cursor)) = some ([(0, 0x01), (5, 0x82)], 2) := by decide

theorem test_display_V5c :
    (afterWord 0x0A0000 State.reset).map (fun t => (t.enabled, t.trace, t.lines)) = some (true, [], []) := by decide

theorem test_nodisplay_V5d :
    (afterWord 0x0B0000 (shown 3 0x05)).map (fun t => (t.trace, t.activeDigit, t.enabled))
    = some ([10, 11, 12, 13, 0, 1, 2, 3, 4, 5, 6, 7].map (GpioCall.writeLevel · false), 0, false) := by decide

/-- A configuration in tick-count mode with the period given (V9). -/
def ticked (period : Word32) : Config := { Config.k4 with timebaseGiven := some .tickCount, refreshPeriodMicros := period }

theorem test_setblinkinterval_wall_V9 :
    (afterWord 0x0CFFFF State.reset).map (·.blinkInterval) = some 65535 := by decide

theorem test_setblinkinterval_ticks_V9 :
    [(16667, 300), (500000, 300), (1001, 1), (1, 65535), (3000, 100), (0, 300)].map
      (fun v : Nat × Nat => ((ticked (BitVec.ofNat 32 v.1)).intervalOf (BitVec.ofNat 16 v.2)).toNat)
    = [17, 0, 0, 65535000, 33, 300] := by decide +kernel

theorem test_refresh_trace_V6c :
    (afterWord 0x0D0000 (shown 1 0x82)).map (fun t => (t.trace, t.activeDigit)) = some
      ([.writeLevel 10 false, .writeLevel 0 true, .writeLevel 1 true, .writeLevel 2 false, .writeLevel 3 true,
        .writeLevel 4 true, .writeLevel 5 false, .writeLevel 6 true, .writeLevel 7 true, .writeLevel 11 true], 2) := by
  decide

theorem test_refresh_blanked_point_lit_V6e :
    (afterWord 0x0D0000 { shown 1 0xC8 with blinkOff := true }).map
      (fun t => (List.range 8).map t.segOut) = some
      [some (.driven false), some (.driven false), some (.driven false), some (.driven false),
       some (.driven false), some (.driven false), some (.driven false), some (.driven true)] := by decide

/-! ## The blink timer (V7, V8), event order (V10), the ports -/

theorem test_blink_wall_V7 :
    [(1000, 1299), (1000, 1300), (0xFFFFFF00, 0x2B), (0xFFFFFF00, 0x2C), (1000, 999)].map
      (fun v : Nat × Nat =>
        let t := blinkUpdate { State.reset with
          blinkTimer := BitVec.ofNat 32 v.1, ports := { Ports.quiet with now := BitVec.ofNat 32 v.2 } }
        (t.blinkTimer.toNat, t.blinkOff))
    = [(1000, false), (1300, true), (0xFFFFFF00, false), (0x2C, true), (999, true)] := by decide

theorem test_blink_tick_V8 :
    [(3, 0), (3, 2), (1, 0), (0, 0), (5, 10)].map
      (fun v : Nat × Nat =>
        let t := blinkUpdate { State.initial (ticked 1000) with
          blinkInterval := BitVec.ofNat 32 v.1, blinkTimer := BitVec.ofNat 32 v.2 }
        (t.blinkTimer.toNat, t.blinkOff))
    = [(1, false), (0, true), (0, true), (0, true), (0, true)] := by decide

theorem test_command_before_tick_V10 :
    (after { shown 0 0x01 with
      pending := [{ commandPorts Ports.quiet 0x050037 with refreshTick := true }] }).map
      (fun t => (t.segOut 0, t.segOut 3, t.activeDigit, t.resp)) =
    some (some (.driven true), some (.driven false), 1, true) := by decide

theorem test_reserved_word_is_noop_V4 :
    (afterWord 0x7F1234 { shown 1 0x82 with resp := true }).map (fun t => (t.memory, t.enabled, t.trace, t.resp))
    = some ([(1, 0x82)], true, [], false) := by decide

theorem test_read_port_R64 :
    State.rdData { shown 2 0xC5 with ports := { Ports.quiet with rdAddr := 2 } } = 0xC5#8 := by decide

/-! ## Assembler text (R106, R107) -/

theorem test_assemble_char_literal :
    assembleLine "WRITE 'A' ; a comment".toList = .ok (.command (.write 0x41)) := by decide

theorem test_assemble_two_operands :
    assembleLine "SETDP 1, 0x1".toList = .ok (.command (.setdp 1 true)) := by decide

theorem test_assemble_refresh_at :
    assembleLine "REFRESH @300".toList = .ok (.refreshAt 300) := by decide

theorem test_assemble_writestr :
    assembleLine ("WRITESTR ".toList ++ ['"', '1', '.', '"']) = .ok (.writestr [0x31, 0x2E]) := by decide

/-! ## Witnesses: for each statement with hypotheses, states and operands that meet them together -/

/-- `K4` after a shutdown, enabled: what `BEGIN` leaves of it. -/
def begun : State := ((shutdown State.reset).withEnabled true).withBoot .begun

/-- The same in tick-count mode. -/
def tickBegun : State := ((shutdown (State.initial (ticked 1000))).withEnabled true).withBoot .begun

/-- One digit, decimal point and nothing else unused. -/
def oneDigit : State :=
  { State.initial { Config.k4 with segmentPins := [0, 1, 2, 3, 4, 5, 6, 0xFF], commonDriverPins := [10], displaysCount := 1 }
    with enabled := true }

/-- The witness of every statement whose one hypothesis is a valid configuration: ReservedOpcodeIsNoop,
ClearBlanksBuffer, HomeResetsCursorOnly, SetcursorClamps, NoblinkClearsEveryFlag, ShutdownDrivesAllInactive,
BeginConfiguresClearsEnables, DisplaySetsEnabledOnly, NodisplayShutsDown, EveryRunFromConstructionCompletes,
InvariantAtConstruction, LinesKnownAfterShutdown; in both timebases and with an unused pin. -/
theorem test_witness_valid_configuration :
    State.reset.config.valid = true ∧ tickBegun.config.valid = true ∧ oneDigit.config.valid = true := by decide

/-- The clauses of ShutdownDrivesAllInactive, BeginConfiguresClearsEnables and NodisplayShutsDown about a display with
every pin wired, and about a pin that is not one of the configuration. -/
theorem test_witness_ShutdownDrivesAllInactive :
    (∀ p ∈ State.reset.config.segmentPins ++ State.reset.config.commonDriverPins, p ≠ unusedPin) ∧
    99 ∉ State.reset.config.wiredPins ∧ unusedPin ∉ oneDigit.config.wiredPins := by decide

theorem test_witness_DecodeOfEncode :
    Instr.wellFormed (.setdp 0xFF true) = true ∧ Instr.wellFormed (.setblinkinterval 0xFFFF) = true := by decide

theorem test_witness_OperandBitsWithoutFieldIgnored :
    decodeWord 0x06FF05#24 = .ok (.setdp 5 true) ∧
    0x060105#24 &&& (0xFF#8 ++ Instr.fieldMask (.setdp 5 true)) =
      0x06FF05#24 &&& (0xFF#8 ++ Instr.fieldMask (.setdp 5 true)) := by decide

/-- The boundaries of the reserved opcodes. -/
theorem test_witness_ReservedOpcodeIsNoop :
    [0x000000#24, 0x0E0000#24, 0xFFFFFF#24, 0x010000#24, 0x0DFFFF#24].map
      (fun w => decide (w.extractLsb' 16 8 = 0x00#8 ∨ 0x0E ≤ (w.extractLsb' 16 8).toNat))
    = [true, true, true, false, false] := by decide

theorem test_witness_SerialisedWordReadBack :
    ([] : List Byte).length < 3 ∧ ([0x0C, 0x01] : List Byte).length < 3 := by decide

/-- Each range at both ends, and a neighbour outside all of them. -/
theorem test_witness_EncodeContract :
    (0x30 ≤ (0x30#8).toNat ∧ (0x39#8).toNat ≤ 0x39) ∧ (0x41 ≤ (0x41#8).toNat ∧ (0x46#8).toNat ≤ 0x46) ∧
    (0x61 ≤ (0x61#8).toNat ∧ (0x66#8).toNat ≤ 0x66) ∧ (0x20#8).toNat = 0x20 ∧
    (¬ (0x30 ≤ (0x2F#8).toNat ∧ (0x2F#8).toNat ≤ 0x39) ∧ ¬ (0x41 ≤ (0x2F#8).toNat ∧ (0x2F#8).toNat ≤ 0x46) ∧
      ¬ (0x61 ≤ (0x2F#8).toNat ∧ (0x2F#8).toNat ≤ 0x66) ∧ (0x2F#8).toNat ≠ 0x20) := by decide

theorem test_witness_EncoderProperties :
    (0x41 ≤ (0x41#8).toNat ∧ (0x41#8).toNat ≤ 0x46) ∧ Config.k4.glyphMask = defaultGlyphMask := by decide

/-- Given directly with a zero and a non-zero period, and selected by a zero and a non-zero period. -/
theorem test_witness_TimebaseAndTickPeriod :
    (Config.k4.valid = true ∧ Config.k4.timebaseGiven = some .wallClock) ∧
    ((ticked 0).valid = true ∧ (ticked 0).timebaseGiven = some .tickCount ∧ (ticked 0).refreshPeriodMicros = 0) ∧
    (Config.valid { Config.k4 with timebaseGiven := none } = true ∧ Config.k4.refreshPeriodMicros = 0) ∧
    (Config.valid { ticked 1 with timebaseGiven := none } = true ∧ (ticked 1).refreshPeriodMicros ≠ 0) ∧
    (∃ t, step State.reset = .next t) :=
  ⟨by decide, by decide, by decide, by decide, _, by rw [step_valid (by decide)]; rfl⟩

theorem test_witness_ConstructionValues :
    (Config.k4.valid = true ∧ Config.k4.timebase = .wallClock) ∧
    ((ticked 1000).valid = true ∧ (ticked 1000).timebase = .tickCount) := by decide

theorem test_witness_InvalidConfigurationHasNoStep :
    State.construct (State.initial { Config.k4 with displaysCount := 0 }).config = none ∧
    State.construct (State.initial { Config.k4 with segmentPins := [0, 1, 2, 3, 4, 5, 6, 10] }).config = none := by
  decide

theorem test_witness_PackedSlotView :
    Memory.wf [] = true ∧ Memory.wf [(0, 0x41), (15, 0xD1)] = true ∧ (0 : SlotIndex) ≠ 15 ∧
    (shown 15 0xD1).memory = [(15, 0xD1)] := by decide

/-- The last slot, and the terminal position. -/
theorem test_witness_WriteStoresAtCursor :
    State.reset.config.valid = true ∧ (State.reset.withCursor 15).cursor.toNat < 16 ∧
    16 ≤ (State.reset.withCursor 16).cursor.toNat := by decide

/-- SetdpSetsPointOnly, BlinkdigitSetsFlagOnly, NoblinkdigitClearsFlagOnly and OutOfRangeDigitIgnored: the operand on
both sides of the bound. -/
theorem test_witness_digit_operand :
    State.reset.config.valid = true ∧ (15#8).toNat < 16 ∧ 16 ≤ (16#8).toNat := by decide

theorem test_witness_BufferCommandsTouchNoPin :
    State.reset.config.valid = true ∧ [Instr.clear, .home, .setcursor 255, .write 0, .setdp 255 true, .blinkdigit 0,
      .noblinkdigit 15, .noblink].all isBufferCommand = true := by decide

theorem test_witness_PointIsAnOrdinaryCharacter :
    (State.reset.config.valid = true ∧ (State.reset.withCursor 15).cursor.toNat < 16) ∧
    (∃ t, exec (.setdp 15 true) State.reset = .next t ∧ Memory.dp t.memory 15 ≠ Memory.dp State.reset.memory 15) ∧
    (∃ t, exec .clear (shown 1 0x82) = .next t ∧ Memory.dp t.memory 1 ≠ Memory.dp (shown 1 0x82).memory 1) :=
  ⟨by decide, ⟨_, exec_setdp (by decide) (by decide) _, by decide⟩, ⟨_, exec_clear (by decide), by decide⟩⟩

/-- A cursor at the start, at the last slot, and at capacity. -/
theorem test_witness_WritestrFillsFromCursor :
    State.reset.config.valid = true ∧ State.reset.cursor.toNat ≤ 16 ∧ (State.reset.withCursor 15).cursor.toNat ≤ 16 ∧
    (State.reset.withCursor 16).cursor.toNat ≤ 16 := by decide

theorem test_witness_RefreshWhileDisabledIsNoop :
    State.reset.config.valid = true ∧ State.reset.enabled = false := by decide

/-- The first and the last digit, the last row of the table; the previous digit, and one that is neither. -/
theorem test_witness_RefreshLightsTheActiveDigit :
    ((shown 3 0x91).config.valid = true ∧ (shown 3 0x91).enabled = true ∧
      (shown 3 0x91).activeDigit.toNat < (shown 3 0x91).config.displaysCount ∧
      (Memory.glyph (shown 3 0x91).memory (shown 3 0x91).activeDigit).toNat ≤ 17 ∧
      previousDigit 4 (shown 3 0x91).activeDigit.toNat = 2 ∧ (0 : Nat) ≠ 2) ∧
    ((shown 0 0x01).enabled = true ∧ (shown 0 0x01).activeDigit.toNat = 0 ∧
      (Memory.glyph (shown 0 0x01).memory (shown 0 0x01).activeDigit).toNat ≤ 17) := by decide

theorem test_witness_SingleDigitRefresh :
    oneDigit.config.valid = true ∧ oneDigit.enabled = true ∧ oneDigit.config.displaysCount = 1 ∧
    oneDigit.activeDigit = 0 ∧ (Memory.glyph oneDigit.memory 0).toNat ≤ 17 := by decide

/-- A code of 18 that is shown, and one that the blink phase blanks. -/
theorem test_witness_GlyphBeyondTableRefused :
    ((shown 1 0x12).config.valid = true ∧ (shown 1 0x12).enabled = true ∧
      (shown 1 0x12).activeDigit.toNat < (shown 1 0x12).config.displaysCount ∧
      18 ≤ (Memory.glyph (shown 1 0x12).memory 1).toNat) ∧
    (Memory.blink (shown 1 0x52).memory 1 = true ∧
      (blinkUpdate { shown 1 0x52 with blinkOff := true }).blinkOff = true) := by decide

theorem test_witness_SentinelNeverPassed :
    ∃ t, step (oneDigit.withFetchWord 24 0x010000) = .next t ∧ t.trace ≠ [] := by
  refine ⟨_, by rw [step_valid (by decide)]; rfl, by decide⟩

theorem test_witness_SetblinkintervalConverts :
    (State.reset.config.valid = true ∧ State.reset.config.timebase = .wallClock) ∧
    (tickBegun.config.valid = true ∧ tickBegun.config.timebase = .tickCount) := by decide

/-- One millisecond before the interval, and at it (V7). -/
theorem test_witness_WallClockBlinkUpdate :
    let s (now : Word32) : State :=
      { shown 0 0x01 with blinkTimer := 1000, ports := { Ports.quiet with now := now } }
    ((s 1300).config.valid = true ∧ (s 1300).enabled = true ∧
      (s 1300).activeDigit.toNat < (s 1300).config.displaysCount ∧
      (Memory.glyph (s 1300).memory (s 1300).activeDigit).toNat ≤ 17 ∧ (s 1300).config.timebase = .wallClock) ∧
    (s 1300).blinkInterval.toNat ≤ ((s 1300).ports.now.toNat + 2 ^ 32 - (s 1300).blinkTimer.toNat) % 2 ^ 32 ∧
    ((s 1299).ports.now.toNat + 2 ^ 32 - (s 1299).blinkTimer.toNat) % 2 ^ 32 < (s 1299).blinkInterval.toNat := by
  decide

/-- The invariant holds of the enabled state in wall-clock mode. -/
theorem test_inv_begun : begun.Inv where
  config_valid := by decide
  memory_wf := by decide
  glyphs_legal := by unfold glyphsLegal; decide
  cursor_le := by decide
  active_lt := by decide
  lines_legal := by unfold linesLegal; decide
  timer_legal := (by decide : begun.blinkInterval.toNat ≤ 65535)

/-- The invariant holds of the enabled state in tick-count mode, at every count of the blink timer below the interval
of 300 ticks. -/
theorem test_inv_tickBegun : tickBegun.Inv ∧ (tickBegun.withBlinkTimer 299).Inv ∧
    (tickBegun.withBlinkInterval 0).Inv ∧ (tickBegun.withBlinkInterval 1).Inv := by
  have h : ∀ s : State, s.config = tickBegun.config → s.memory = tickBegun.memory → s.cursor = tickBegun.cursor →
      s.activeDigit = tickBegun.activeDigit → s.lines = tickBegun.lines → s.blinkInterval.toNat ≤ 300 →
      s.blinkTimer.toNat < 300 → s.Inv := by
    intro s hc hm hk ha hl hi ht
    refine ⟨by rw [hc]; decide, by rw [hm]; decide, ?_, by rw [hk]; decide, by rw [ha, hc]; decide, ?_, ?_⟩
    · unfold glyphsLegal; rw [hm]; decide
    · unfold linesLegal; rw [hl, hc]; decide
    · rw [timerLegal, hc]; exact ⟨by omega, by omega⟩
  exact ⟨h _ rfl rfl rfl rfl rfl (by decide) (by decide), h _ rfl rfl rfl rfl rfl (by decide) (by decide),
    h _ rfl rfl rfl rfl rfl (by decide) (by decide), h _ rfl rfl rfl rfl rfl (by decide) (by decide)⟩

/-- Every wired line of the enabled state is inactive. -/
theorem test_allInactive_begun : begun.allInactive ∧ tickBegun.allInactive := by
  unfold State.allInactive commonWired segmentWired State.commonInactive State.segmentDark
  decide

/-- The invariant of the lines holds of the enabled state and of the same state disabled. -/
theorem test_linesKnown_begun : begun.LinesKnown ∧ (begun.withEnabled false).LinesKnown := by
  constructor <;> constructor <;> (try unfold State.allInactive) <;> (try unfold commonWired) <;>
    (try unfold segmentWired) <;> (try unfold State.commonInactive) <;> (try unfold State.segmentDark) <;> decide

/-- StoresAreIdempotent. -/
theorem test_witness_StoresAreIdempotent :
    begun.Inv ∧ ∃ t, exec (.setdp 15 true) begun = .next t :=
  ⟨test_inv_begun, _, exec_setdp (by decide) (by decide) _⟩

/-- TickCountBlinkUpdate at both sides of the interval, and TickCountTogglesEveryInterval, which asks the count to be
below the interval. -/
theorem test_witness_TickCountBlinkUpdate :
    tickBegun.Inv ∧ tickBegun.enabled = true ∧ tickBegun.config.timebase = .tickCount ∧
    tickBegun.blinkTimer.toNat + 1 < tickBegun.blinkInterval.toNat ∧
    tickBegun.blinkTimer.toNat < max tickBegun.blinkInterval.toNat 1 ∧
    (tickBegun.withBlinkTimer 299).blinkInterval.toNat ≤ (tickBegun.withBlinkTimer 299).blinkTimer.toNat + 1 :=
  ⟨test_inv_tickBegun.1, by decide, by decide, by decide, by decide, by decide⟩

/-- The zero interval in both modes, the interval of 1 in tick-count mode. -/
theorem test_witness_ZeroIntervalTogglesEveryRefresh :
    ((tickBegun.withBlinkInterval 0).Inv ∧ (tickBegun.withBlinkInterval 1).Inv ∧ tickBegun.enabled = true ∧
      tickBegun.config.timebase = .tickCount) ∧
    ((begun.withBlinkInterval 0).Inv ∧ begun.enabled = true ∧ begun.config.timebase = .wallClock) :=
  ⟨⟨test_inv_tickBegun.2.2.1, test_inv_tickBegun.2.2.2, by decide, by decide⟩,
    { test_inv_begun with timer_legal := (by decide : (0 : Word32).toNat ≤ 65535) }, by decide, by decide⟩

/-- TimerStandsStill: another instruction, and a refresh while disabled. -/
theorem test_witness_TimerStandsStill :
    (∃ t, exec .home begun = .next t) ∧ (∃ t, exec .refresh State.reset = .next t) ∧ State.reset.enabled = false :=
  ⟨⟨_, exec_home (by decide)⟩, ⟨_, exec_refresh_disabled (by decide) (by decide)⟩, by decide⟩

/-- WritersTable and AnswerIsWriteConsumed: an instruction that changes something; the reserved words of the second
statement are in `test_witness_ReservedOpcodeIsNoop`. -/
theorem test_witness_WritersTable :
    ∃ t, exec (.write 0x37) begun = .next t ∧ t.cursor ≠ begun.cursor ∧
      Memory.glyph t.memory 0 ≠ Memory.glyph begun.memory 0 ∧ t.resp = true :=
  ⟨_, exec_write (by decide) (by decide) _, by decide, by decide, by decide⟩

/-- EveryEventCompletes, InvariantKeptByEveryStep and LinesKnownKeptByEveryStep: a state of both invariants that steps,
enabled and disabled, and with the history at which each clause of the last one starts. -/
theorem test_witness_invariant_steps :
    begun.Inv ∧ begun.LinesKnown ∧ (begun.withEnabled false).LinesKnown ∧ begun.boot ≠ .fresh ∧ begun.boot = .begun ∧
    ∃ t, step (begun.presenting (ticks [5])) = .next t :=
  ⟨test_inv_begun, test_linesKnown_begun.1, test_linesKnown_begun.2, by decide, by decide, _,
    by rw [step_valid (by decide)]; rfl⟩

/-- CommonLineDecoder, SegmentsChangeInTheDark, OnlyTheActiveDigitShows and RefreshTicksScanTheDigits: an enabled state of
both invariants, every line of it wired. -/
theorem test_witness_enabled_lines_known :
    begun.Inv ∧ begun.LinesKnown ∧ begun.boot = .begun ∧ begun.enabled = true ∧ commonWired begun.config 3 ∧
    segmentWired begun.config 7 ∧ ([0, 300] : List Word32) ≠ [] :=
  ⟨test_inv_begun, test_linesKnown_begun.1, by decide, by decide, by unfold commonWired; decide,
    by unfold segmentWired; decide, by decide⟩

/-- OnlyTheActiveDigitShows, its second clause: the run R233 names, a `DISPLAY` and a refresh without a `BEGIN`. The
refresh drove the common line of digit 0, the pin was never configured, and no invariant of the lines is claimed. -/
theorem test_witness_no_begin_R233 :
    ∃ t, (afterWord 0x0A0000 State.reset).bind (afterWord 0x0D0000) = some t ∧ t.config.valid = true ∧
      t.boot = .fresh ∧ ¬ t.LinesKnown ∧ t.line 10 = .driven true ∧ commonWired t.config 0 ∧ commonWired t.config 3 ∧
      segmentWired t.config 7 :=
  ⟨_, rfl, by decide, by decide, fun h => h.shut_down (by decide), by decide, by unfold commonWired; decide,
    by unfold commonWired; decide, by unfold segmentWired; decide⟩

/-- R152 and R154: `BEGIN` configures the pins, `NODISPLAY` does not, and neither takes a configuration back. -/
theorem test_boot_history :
    (afterWord 0x010000 State.reset).map (·.boot) = some .begun ∧
    (afterWord 0x0B0000 State.reset).map (·.boot) = some .shutDown ∧
    (afterWord 0x0B0000 begun).map (·.boot) = some .begun := by decide

/-- Two states that differ in the buffer, the flags, the cursor and the timer. -/
theorem test_witness_SequencingIgnoresTheBuffer :
    (shown 1 0xC2).config = (State.reset).config ∧
    ({ shown 1 0xC2 with blinkTimer := 7, cursor := 3 } : State).activeDigit = (shown 1 0x01).activeDigit ∧
    (shown 1 0xC2).enabled = (shown 1 0x01).enabled ∧
    (∃ t, exec .home (shown 1 0xC2) = .next t) ∧ ∃ t, exec .home (shown 1 0x01) = .next t :=
  ⟨rfl, rfl, rfl, ⟨_, exec_home (by decide)⟩, _, exec_home (by decide)⟩

/-- Two buffers that differ in the first hidden slot of `K4`, slot 4. -/
theorem test_witness_HiddenSlotsNeverShown :
    begun.activeDigit.toNat < begun.config.displaysCount ∧
    (∀ i : SlotIndex, i.toNat < begun.config.displaysCount →
      Memory.read [(4, 0x91)] i = Memory.read begun.memory i) := by decide

/-- StepRunsWhatIsPresented: nothing, a command, a tick; and a host that presents nothing more. -/
theorem test_witness_StepRunsWhatIsPresented :
    (begun.presenting [Ports.quiet]).pending = [Ports.quiet] ∧ Ports.quiet.cmdValid = false ∧
    Ports.quiet.refreshTick = false ∧
    (commandPorts Ports.quiet 0x050037).cmdValid = true ∧ (commandPorts Ports.quiet 0x050037).refreshTick = false ∧
    decodeWord (commandPorts Ports.quiet 0x050037).cmd = .ok (.write 0x37) ∧
    (tickPorts 9).cmdValid = false ∧ (tickPorts 9).refreshTick = true ∧ begun.pending = [] ∧
    begun.config.valid = true := by decide

/-- `WRITE '7'` and a tick together. -/
def both : Ports := { commandPorts Ports.quiet 0x050037 with refreshTick := true }

/-- The state in which a step with `both` performs its command. -/
def bothSampled : State := { begun with ports := both, pending := [], trace := [] }

theorem test_witness_CommandBeforeTick :
    begun.config.valid = true ∧ (begun.presenting [both]).pending = [both] ∧ both.cmdValid = true ∧
    both.refreshTick = true ∧ decodeWord both.cmd = .ok (.write 0x37) ∧
    ∃ t, exec (.write 0x37) bothSampled = .next t ∧ ∃ u, exec .refresh t = .next u :=
  ⟨by decide, rfl, rfl, rfl, by decide, _, exec_write (by decide) (by decide) _, _,
    exec_refresh (g := 7) (by decide) (by decide) (by decide) (by decide)⟩

/-- OpcodeAndTickRefreshAlike and FetchWordRunsNext. -/
theorem test_witness_refresh_word :
    decodeWord 0x0DABCD#24 = .ok .refresh ∧ decodeTableWord 24 0x0D0000 = some .refresh ∧
    State.reset.config.valid = true := by decide

end Sys2Proof.Tests
end

section
/-! The timebase and the tick period as functions of the configuration (00_scope.md R6), the interval in wall-clock
mode (43_blink_timer.md R183), and the configuration through a step (10_state.md R30). -/

namespace Sys2Proof.Machine

section Timebase
variable {c : Config}

theorem timebase_of_given {tb : Timebase} (h : c.timebaseGiven = some tb) : c.timebase = tb := by
  rw [Config.timebase, h]

theorem timebase_of_period_zero (hg : c.timebaseGiven = none) (hp : c.refreshPeriodMicros = 0) :
    c.timebase = .wallClock := by
  simp only [Config.timebase, hg, if_pos hp]

theorem timebase_of_period_ne_zero (hg : c.timebaseGiven = none) (hp : c.refreshPeriodMicros ≠ 0) :
    c.timebase = .tickCount := by
  simp only [Config.timebase, hg, if_neg hp]

theorem tickPeriodEff_of_period_zero (hp : c.refreshPeriodMicros = 0) :
    c.tickPeriodEff = c.defaultTickPeriodMicros := if_pos hp

theorem tickPeriodEff_of_period_ne_zero (hp : c.refreshPeriodMicros ≠ 0) :
    c.tickPeriodEff = c.refreshPeriodMicros := if_neg hp

/-- The wall-clock interval is the operand itself: the tick period does not enter (R6, R183). -/
theorem intervalOf_wallClock (h : c.timebase = .wallClock) (ms : BitVec 16) :
    c.intervalOf ms = ms.setWidth 32 := by
  rw [Config.intervalOf, h]

theorem intervalOf_wallClock_toNat (h : c.timebase = .wallClock) (ms : BitVec 16) :
    (c.intervalOf ms).toNat = ms.toNat := by
  rw [intervalOf_wallClock h, BitVec.toNat_setWidth_of_le (by decide)]

end Timebase

/-- No step writes the configuration (R30): sampling and an answer touch the ports and the outputs only, and no
instruction writes it. -/
theorem step_config {s t : State} (h : step s = .next t) : t.config = s.config :=
  step_keeps (P := fun u => u.config = s.config)
    (fun _ hu => hu) (fun _ _ hu => hu)
    (fun _ _ _ hu hx => (exec_keeps_inputs hx).1.trans hu) rfl h

/-- Settles O10: the clauses of R6 from the equations above, and the configuration kept by every step. -/
theorem timebaseAndTickPeriod : Obligations.TimebaseAndTickPeriod := by
  intro c hv
  refine ⟨fun _ => timebase_of_given, fun hg => ⟨timebase_of_period_zero hg, timebase_of_period_ne_zero hg⟩,
    tickPeriodEff_of_period_ne_zero, tickPeriodEff_of_period_zero, tickPeriodEff_ne_zero hv,
    intervalOf_wallClock_toNat, ?_⟩
  intro s t hs h
  rw [step_config h, hs]

end Sys2Proof.Machine
end

section
/-! The two phases of a step and their order (20_memory.md R73, 30_encoding.md R105). -/

namespace Sys2Proof.Machine

/-- What is sampled when the host presents `p` next (R105). -/
theorem sample_of_pending {s : State} {p : Ports} {rest : List Ports} (h : s.pending = p :: rest) :
    sample s = { s with ports := p, pending := rest, trace := [] } := by
  simp only [sample, nextPorts, h]
  rfl

/-- A command presented is the event of the command port (R105). -/
theorem commandPhase_of_decode {s : State} {i : Instr} (hv : s.ports.cmdValid = true)
    (hi : decodeWord s.ports.cmd = .ok i) : commandPhase s = exec i s := by
  rw [commandPhase, if_pos hv, performCommand, hi]

/-- A tick presented with a command is the refresh step, and the command's answer stays on `resp` (R90, R105). -/
theorem tickPhase_of_command {t u : State} (hv : t.ports.cmdValid = true) (hr : t.ports.refreshTick = true)
    (hu : exec .refresh t = .next u) : tickPhase t = .next (u.withResp t.resp) := by
  rw [tickPhase, if_pos hr, hu, keepCommandAnswer, if_pos hv]

/-- Settles O58: the command runs in the sampled state; it keeps the ports sampled, so the tick is still presented
when the tick phase runs in the state the command left. -/
theorem commandBeforeTick : Obligations.CommandBeforeTick := by
  intro s t u p rest i hvalid hpending hcmd htick hdecode hexec hrefresh
  have hsampled : (sample s).ports = p := by rw [sample_of_pending hpending]
  rw [← sample_of_pending hpending] at hexec
  obtain ⟨-, hkept, -⟩ := exec_keeps_inputs hexec
  have hports : t.ports = p := hkept.trans hsampled
  have hcommand : commandPhase (sample s) = .next t :=
    (commandPhase_of_decode (by rw [hsampled, hcmd]) (by rw [hsampled, hdecode])).trans hexec
  have htickPhase : tickPhase t = .next (u.withResp t.resp) :=
    tickPhase_of_command (by rw [hports, hcmd]) (by rw [hports, htick]) hrefresh
  refine ⟨t.resp, ?_⟩
  rw [step_valid hvalid]
  exact andThen_eq_next.2 ⟨t, hcommand, htickPhase⟩

end Sys2Proof.Machine
end

section
/-! The opcode map (30_encoding.md R92, R97) and the operand fields (R93 to R96, R98): which instruction a word selects,
which bits of it count, and which words are reserved. -/

namespace Sys2Proof

/-! ## The operand half and its fields -/

/-- The low byte of an operand half, with the bits above it masked away (R93 to R95). -/
theorem and_lowByteMask (x : BitVec 16) : x &&& 0x00FF#16 = 0#8 ++ lowByteOf x := by
  have hx : x = x.extractLsb' 8 8 ++ lowByteOf x := by
    rw [lowByteOf, BitVec.extractLsb'_append_extractLsb'_eq_extractLsb' (by rfl), BitVec.extractLsb'_eq_self]
  calc x &&& 0x00FF#16
      = (x.extractLsb' 8 8 ++ lowByteOf x) &&& (0#8 ++ BitVec.allOnes 8) := congrArg (· &&& 0x00FF#16) hx
    _ = 0#8 ++ lowByteOf x := by rw [BitVec.and_append, BitVec.and_zero, BitVec.and_allOnes]

/-- The nine operand bits of `SETDP` (R95). -/
theorem and_setdpMask (x : BitVec 16) :
    x &&& 0x01FF#16 = 0#7 ++ BitVec.ofBool (onBitOf x) ++ lowByteOf x := by
  have hon : BitVec.ofBool (onBitOf x) = x.extractLsb' 8 1 := by
    rw [onBitOf, BitVec.getElem_eq_extractLsb']
    exact (by decide : ∀ b : BitVec 1, BitVec.ofBool (b == 1#1) = b) _
  have hx : x = x.extractLsb' 9 7 ++ x.extractLsb' 8 1 ++ lowByteOf x := by
    rw [lowByteOf, BitVec.extractLsb'_append_extractLsb'_eq_extractLsb' (by rfl),
      BitVec.extractLsb'_append_extractLsb'_eq_extractLsb' (by rfl), BitVec.extractLsb'_eq_self]
  calc x &&& 0x01FF#16
      = (x.extractLsb' 9 7 ++ x.extractLsb' 8 1 ++ lowByteOf x) &&&
          (0#7 ++ BitVec.allOnes 1 ++ BitVec.allOnes 8) := congrArg (· &&& 0x01FF#16) hx
    _ = 0#7 ++ BitVec.ofBool (onBitOf x) ++ lowByteOf x := by
        rw [BitVec.and_append, BitVec.and_append, BitVec.and_zero, BitVec.and_allOnes, BitVec.and_allOnes, hon]

theorem lowByteOf_operandOf (w : CommandWord) : lowByteOf (operandOf w) = w.extractLsb' 0 8 := by
  rw [lowByteOf, operandOf, BitVec.extractLsb'_extractLsb'_of_le (by omega)]

theorem onBitOf_operandOf (w : CommandWord) : onBitOf (operandOf w) = w.getLsbD 8 := by
  rw [onBitOf, ← BitVec.getLsbD_eq_getElem, operandOf, BitVec.getLsbD_extractLsb']
  rfl

/-! ## The row an opcode selects -/

/-- The instruction of the same row of R92 whose operands are the fields of the operand half `x` (R93 to R96). -/
def Instr.withFields (x : BitVec 16) : Instr → Instr
  | .begin => .begin
  | .clear => .clear
  | .home => .home
  | .setcursor _ => .setcursor (lowByteOf x)
  | .write _ => .write (lowByteOf x)
  | .setdp _ _ => .setdp (lowByteOf x) (onBitOf x)
  | .blinkdigit _ => .blinkdigit (lowByteOf x)
  | .noblinkdigit _ => .noblinkdigit (lowByteOf x)
  | .noblink => .noblink
  | .display => .display
  | .nodisplay => .nodisplay
  | .setblinkinterval _ => .setblinkinterval x
  | .refresh => .refresh

@[simp] theorem Instr.withFields_opcode (i : Instr) (x : BitVec 16) : (i.withFields x).opcode = i.opcode := by
  cases i <;> rfl

/-- The decoder on the opcode of a row: the row, with the fields of the operand half. -/
theorem decodeFields_opcode (i : Instr) (x : BitVec 16) : decodeFields i.opcode x = .ok (i.withFields x) := by
  cases i <;> rfl

/-- The decoder answers an instruction only under that instruction's opcode. -/
theorem opcode_of_decodeFields_ok {op : Byte} {x : BitVec 16} {i : Instr} (h : decodeFields op x = .ok i) :
    op = i.opcode := by
  unfold decodeFields at h
  split at h <;> cases h <;> exact BitVec.eq_of_toNat_eq ‹_›

/-- The fields of `x` are the operands of `i` exactly when `x` is the operand half the encoder writes, on the bits that
are fields of the row (R98). -/
theorem Instr.withFields_eq_self_iff (i : Instr) (x : BitVec 16) :
    i.withFields x = i ↔ x &&& i.fieldMask = i.operand := by
  have hlow : ∀ b : Byte, lowByteOf x = b ↔ x &&& 0x00FF#16 = 0#8 ++ b := fun b => by
    rw [and_lowByteMask, BitVec.append_right_inj]
  cases i with
  | setcursor pos => simpa [withFields, fieldMask, operand] using hlow pos
  | write ch => simpa [withFields, fieldMask, operand] using hlow ch
  | blinkdigit digit => simpa [withFields, fieldMask, operand] using hlow digit
  | noblinkdigit digit => simpa [withFields, fieldMask, operand] using hlow digit
  | setdp digit on =>
    simp only [withFields, fieldMask, operand, and_setdpMask, setdp.injEq]
    refine ⟨fun ⟨hd, hon⟩ => by rw [hd, hon], fun h => ⟨?_, ?_⟩⟩
    · simpa using congrArg lowByteOf h
    · simpa using congrArg onBitOf h
  | setblinkinterval ms =>
    have hall : x &&& 0xFFFF#16 = x := BitVec.and_allOnes
    simp [withFields, fieldMask, operand, hall]
  | begin | clear | home | noblink | display | nodisplay | refresh => simp [withFields, fieldMask, operand]

theorem decodeFields_eq_ok_iff {op : Byte} {x : BitVec 16} {i : Instr} :
    decodeFields op x = .ok i ↔ op = i.opcode ∧ x &&& i.fieldMask = i.operand := by
  rw [← Instr.withFields_eq_self_iff]
  constructor
  · intro h
    obtain rfl := opcode_of_decodeFields_ok h
    rw [decodeFields_opcode] at h
    exact ⟨rfl, Except.ok.inj h⟩
  · rintro ⟨rfl, hx⟩
    rw [decodeFields_opcode, hx]

/-! ## Words under a mask -/

/-- A mask of the whole opcode and of some operand bits takes the two halves of a word apart. -/
theorem and_opcodeMask_append (w : CommandWord) (m : BitVec 16) :
    w &&& (0xFF#8 ++ m) = opcodeOf w ++ (operandOf w &&& m) := by
  have hop : opcodeOf w &&& 0xFF#8 = opcodeOf w := BitVec.and_allOnes
  calc w &&& (0xFF#8 ++ m)
      = (opcodeOf w ++ operandOf w) &&& (0xFF#8 ++ m) := congrArg (· &&& (0xFF#8 ++ m)) (word_eq_append w)
    _ = opcodeOf w ++ (operandOf w &&& m) := by rw [BitVec.and_append, hop]

/-- A word is its opcode and its operand half: two words are the same when both are. -/
theorem word_append_inj {op op' : Byte} {x x' : BitVec 16} :
    (op ++ x : CommandWord) = op' ++ x' ↔ op = op' ∧ x = x' := by
  refine ⟨fun h => ⟨?_, ?_⟩, fun ⟨hop, hx⟩ => by rw [hop, hx]⟩
  · simpa using congrArg opcodeOf h
  · simpa using congrArg operandOf h

/-- A word decodes to `i` exactly when it is the encoding of `i` on the opcode and the operand fields (R92, R98). -/
theorem decodeWord_eq_ok_iff {w : CommandWord} {i : Instr} :
    decodeWord w = .ok i ↔ w &&& (0xFF#8 ++ i.fieldMask) = encode i := by
  rw [decodeWord, decodeFields_eq_ok_iff, and_opcodeMask_append, encode, word_append_inj]

/-- The row of `i` in the opcode map (R92): the match under the mask `0xFF0000` and the operand fields of the word. -/
theorem opcodeMask_match_iff (i : Instr) (w : CommandWord) :
    w &&& 0xFF0000#24 = i.opcode ++ 0#16 ↔ decodeWord w = .ok (i.withFields (operandOf w)) := by
  have hmask : w &&& 0xFF0000#24 = opcodeOf w ++ 0#16 := by
    rw [← BitVec.and_zero (x := operandOf w), ← and_opcodeMask_append]
    rfl
  rw [hmask, word_append_inj, and_iff_left rfl, decodeWord]
  constructor
  · intro h
    rw [h, decodeFields_opcode]
  · intro h
    rw [opcode_of_decodeFields_ok h, Instr.withFields_opcode]

/-! ## The reserved opcodes -/

/-- The opcodes of R92 are 0x01 to 0x0D. -/
theorem Instr.opcode_range (i : Instr) : i.opcode ≠ 0x00#8 ∧ i.opcode.toNat < 0x0E := by
  cases i <;> simp [opcode]

/-- The reserved opcodes are 0x00 and 0x0E to 0xFF (R97). -/
theorem decodeFields_error_iff {op : Byte} {x : BitVec 16} :
    (∃ e, decodeFields op x = .error e) ↔ op = 0x00#8 ∨ 0x0E ≤ op.toNat := by
  constructor
  · rintro ⟨e, h⟩
    unfold decodeFields at h
    split at h
    case h_14 =>
      simp only [imp_false] at *
      rw [← BitVec.toNat_inj, BitVec.toNat_ofNat]
      omega
    all_goals cases h
  · intro hop
    cases h : decodeFields op x with
    | error e => exact ⟨e, rfl⟩
    | ok i =>
      obtain ⟨hzero, hlt⟩ := i.opcode_range
      rw [opcode_of_decodeFields_ok h] at hop
      exact absurd hop (not_or.2 ⟨hzero, by omega⟩)

end Sys2Proof

namespace Sys2Proof.Machine

/-! ## A step with one command -/

theorem performCommand_of_ok {w : CommandWord} {i : Instr} (h : decodeWord w = .ok i) :
    performCommand w = exec i := by
  funext s; rw [performCommand, h]

theorem performCommand_of_error {w : CommandWord} {e : DecodeReject} (h : decodeWord w = .error e) :
    performCommand w = reservedNoop := by
  funext s; rw [performCommand, h]

/-- No command writes the input ports (R30). -/
theorem performCommand_keeps_ports {w : CommandWord} {s t : State} (h : performCommand w s = .next t) :
    t.ports = s.ports := by
  cases hw : decodeWord w with
  | ok i =>
    rw [performCommand_of_ok hw] at h
    obtain ⟨-, hports, -⟩ := exec_keeps_inputs h
    exact hports
  | error e =>
    rw [performCommand_of_error hw] at h
    obtain rfl := Host.Outcome.next.inj h
    rfl

/-- A step to which a command and no tick is presented performs that command, in the sampled state (R105). -/
theorem step_of_command {s : State} {p : Ports} {rest : List Ports} (hvalid : s.config.valid = true)
    (hpending : s.pending = p :: rest) (hcmd : p.cmdValid = true) (htick : p.refreshTick = false) :
    step s = performCommand p.cmd { s with ports := p, pending := rest, trace := [] } := by
  have hcommand : commandPhase (sample s) =
      performCommand p.cmd { s with ports := p, pending := rest, trace := [] } := by
    rw [sample_of_pending hpending, commandPhase, if_pos hcmd]
  rw [step_valid hvalid, hcommand]
  cases h : performCommand p.cmd { s with ports := p, pending := rest, trace := [] } with
  | next t =>
    have hquiet : t.ports.refreshTick = false := by rw [performCommand_keeps_ports h, htick]
    rw [andThen, tickPhase, hquiet, if_neg Bool.false_ne_true]
  | fault r => rfl
  | refused r => rfl

/-! ## The answer (R99) -/

theorem resp_of_perform_answer {s t u : State} {r : Bool} (h : perform s (answer r u) = .next t) : t.resp = r := by
  obtain ⟨-, rfl⟩ := perform_eq_next.1 h
  rfl

/-- A `WRITE` answers whether the cursor was below capacity (R99, R133). -/
theorem resp_of_write {ch : Byte} {s t : State} (h : exec (.write ch) s = .next t) :
    t.resp = decide (s.cursor.toNat < 16) := by
  have hvalid := valid_of_exec_next h
  by_cases hc : s.cursor.toNat < 16
  · rw [exec_write hvalid hc] at h
    obtain rfl := Host.Outcome.next.inj h
    exact (decide_eq_true hc).symm
  · rw [exec_write_full hvalid (by omega)] at h
    obtain rfl := Host.Outcome.next.inj h
    exact (decide_eq_false hc).symm

theorem resp_of_refresh {s t : State} (h : exec .refresh s = .next t) : t.resp = false := by
  have hvalid := valid_of_exec_next h
  cases he : s.enabled with
  | false =>
    rw [exec_refresh_disabled hvalid he] at h
    obtain rfl := Host.Outcome.next.inj h
    rfl
  | true =>
    rw [exec_refresh_enabled hvalid he] at h
    obtain ⟨-, g, -, rfl⟩ := refreshEnabled_eq_next.1 h
    rfl

/-- Every instruction but `WRITE` answers 0 (R99). -/
theorem resp_of_not_write {i : Instr} {s t : State} (hi : ∀ ch, i ≠ .write ch) (h : exec i s = .next t) :
    t.resp = false := by
  cases i with
  | write ch => exact absurd rfl (hi ch)
  | setdp digit on => rw [exec, execSetdp] at h; split at h <;> exact resp_of_perform_answer h
  | blinkdigit digit => rw [exec, execBlinkdigit] at h; split at h <;> exact resp_of_perform_answer h
  | noblinkdigit digit => rw [exec, execNoblinkdigit] at h; split at h <;> exact resp_of_perform_answer h
  | refresh => exact resp_of_refresh h
  | begin | clear | home | setcursor | noblink | display | nodisplay | setblinkinterval =>
    exact resp_of_perform_answer h

/-! ## The statements of the family -/

/-- Settles O2: each row is the row of its opcode, with the fields of the operand half written as fields of the word. -/
theorem opcodeMapSelectsTheRow : Obligations.OpcodeMapSelectsTheRow := by
  intro w
  rw [← lowByteOf_operandOf, ← onBitOf_operandOf]
  exact ⟨opcodeMask_match_iff .begin w, opcodeMask_match_iff .clear w, opcodeMask_match_iff .home w,
    opcodeMask_match_iff (.setcursor 0) w, opcodeMask_match_iff (.write 0) w, opcodeMask_match_iff (.setdp 0 false) w,
    opcodeMask_match_iff (.blinkdigit 0) w, opcodeMask_match_iff (.noblinkdigit 0) w, opcodeMask_match_iff .noblink w,
    opcodeMask_match_iff .display w, opcodeMask_match_iff .nodisplay w, opcodeMask_match_iff (.setblinkinterval 0) w,
    opcodeMask_match_iff .refresh w⟩

/-- Settles O4: decoding reads a word only through the mask of the opcode and the operand fields. -/
theorem operandBitsWithoutFieldIgnored : Obligations.OperandBitsWithoutFieldIgnored := by
  intro w v i hw hmask
  have hencode := decodeWord_eq_ok_iff.1 hw
  have hv : decodeWord v = .ok i := decodeWord_eq_ok_iff.2 (hmask.trans hencode)
  exact ⟨hv, fun s => by rw [performCommand_of_ok hv, performCommand_of_ok hw], hencode.symm⟩

/-- Settles O5: the words the decoder rejects are those of R97, and a step that performs one is the no-op in the sampled
state. -/
theorem reservedOpcodeIsNoop : Obligations.ReservedOpcodeIsNoop := by
  intro w s hvalid
  have hiff : (opcodeOf w = 0x00#8 ∨ 0x0E ≤ (opcodeOf w).toNat) ↔ ∃ e, decodeWord w = .error e :=
    decodeFields_error_iff.symm
  refine ⟨hiff, fun hreserved => ?_⟩
  obtain ⟨e, he⟩ := hiff.1 hreserved
  rw [step_of_command (s := s.presenting [commandPorts s.ports w]) hvalid rfl rfl rfl]
  exact congrFun (performCommand_of_error he) _

/-- Settles O43: a `WRITE` answers whether it stored a slot; every other instruction and a reserved word answer 0. -/
theorem answerIsWriteConsumed : Obligations.AnswerIsWriteConsumed := by
  refine ⟨fun i s t h => ?_, fun w e s he => congrFun (performCommand_of_error he) s⟩
  by_cases hi : ∃ ch, i = .write ch
  · obtain ⟨ch, rfl⟩ := hi
    rw [resp_of_write h, decide_eq_true_iff, and_iff_right ⟨ch, rfl⟩]
  · rw [resp_of_not_write (fun ch hch => hi ⟨ch, hch⟩) h]
    exact ⟨fun hresp => absurd hresp Bool.false_ne_true, fun hwrite => absurd hwrite.1 hi⟩

end Sys2Proof.Machine
end

section
/-! The glyph encoder range by range (40_glyph_encoder.md R120). -/

namespace Sys2Proof

/-! ## The code of each range -/

section EncodeRanges
variable {ch : Byte}

theorem encodeChar_of_digit (h : 0x30 ≤ ch.toNat ∧ ch.toNat ≤ 0x39) :
    (encodeChar ch).toNat = ch.toNat - 0x30 := by
  simp only [encodeChar]
  rw [if_pos h, BitVec.toNat_ofNat, Nat.mod_eq_of_lt (by omega)]

theorem encodeChar_of_upper (h : 0x41 ≤ ch.toNat ∧ ch.toNat ≤ 0x46) :
    (encodeChar ch).toNat = ch.toNat - 0x41 + 10 := by
  simp only [encodeChar]
  rw [if_neg (by omega), if_pos h, BitVec.toNat_ofNat, Nat.mod_eq_of_lt (by omega)]

theorem encodeChar_of_lower (h : 0x61 ≤ ch.toNat ∧ ch.toNat ≤ 0x66) :
    (encodeChar ch).toNat = ch.toNat - 0x61 + 10 := by
  simp only [encodeChar]
  rw [if_neg (by omega), if_neg (by omega), if_pos h, BitVec.toNat_ofNat, Nat.mod_eq_of_lt (by omega)]

theorem encodeChar_of_space (h : ch.toNat = 0x20) : encodeChar ch = glyphBlank := by
  simp only [encodeChar]
  rw [if_neg (by omega), if_neg (by omega), if_neg (by omega), if_pos h]

/-- A character outside the ranges is a dash; `'-'` itself is one of these (R120). -/
theorem encodeChar_of_other (hdigit : ¬ (0x30 ≤ ch.toNat ∧ ch.toNat ≤ 0x39))
    (hupper : ¬ (0x41 ≤ ch.toNat ∧ ch.toNat ≤ 0x46)) (hlower : ¬ (0x61 ≤ ch.toNat ∧ ch.toNat ≤ 0x66))
    (hspace : ch.toNat ≠ 0x20) : encodeChar ch = glyphDash := by
  simp only [encodeChar]
  rw [if_neg hdigit, if_neg hupper, if_neg hlower, if_neg hspace, ite_self]

end EncodeRanges

/-! ## The counts -/

/-- The space, the ten digits and the six letters in either case, and no other character (R120). -/
theorem filter_encodeChar_ne_dash :
    (List.range 256).filter (fun n => (encodeChar (BitVec.ofNat 8 n)).toNat != 17) =
      [0x20] ++ List.range' 0x30 10 ++ List.range' 0x41 6 ++ List.range' 0x61 6 := by
  decide

theorem countP_encodeChar_ne_dash :
    (List.range 256).countP (fun n => (encodeChar (BitVec.ofNat 8 n)).toNat != 17) = 23 := by
  rw [List.countP_eq_length_filter, filter_encodeChar_ne_dash]
  rfl

/-- What is left of the 256 characters. -/
theorem countP_encodeChar_eq_dash :
    (List.range 256).countP (fun n => (encodeChar (BitVec.ofNat 8 n)).toNat == 17) = 233 := by
  have hsplit := List.length_eq_countP_add_countP (l := List.range 256)
    (fun n => (encodeChar (BitVec.ofNat 8 n)).toNat != 17)
  simp only [countP_encodeChar_ne_dash, List.length_range, bne_iff_ne, ne_eq, not_not] at hsplit
  simp only [beq_eq_decide]
  omega

/-- Settles O8: one equation for each range, and the characters with a code other than the dash counted. -/
theorem encodeContract : Obligations.EncodeContract := by
  refine ⟨fun ch => ⟨encodeChar_of_digit, encodeChar_of_upper, encodeChar_of_lower, fun h => ?_,
    fun ⟨hdigit, hupper, hlower, hspace⟩ => ?_⟩, countP_encodeChar_ne_dash, countP_encodeChar_eq_dash⟩
  · rw [encodeChar_of_space h]; rfl
  · rw [encodeChar_of_other hdigit hupper hlower hspace]; rfl

end Sys2Proof
end

section
/-! The buffer commands (41_buffer_ops.md R130 to R140): which slots a field store leaves alone, what an instruction does
to the buffer, and what a buffer command depends on. -/

namespace Sys2Proof.Machine

/-! ## The row of an opcode -/

/-- Every row of R92 as a statement about the words of its opcode. -/
theorem opcodeSelects_withFields (i : Instr) : opcodeSelects i.opcode (fun x => i.withFields x) :=
  fun x => (decodeWord_append i.opcode x).trans (decodeFields_opcode i x)

/-! ## One field store in one slot -/

theorem slot_eq_ofNat_iff {n : Nat} (hn : n < 16) {j : SlotIndex} : j = BitVec.ofNat 4 n ↔ j.toNat = n := by
  rw [← BitVec.toNat_inj, BitVec.toNat_ofNat, Nat.mod_eq_of_lt hn]

theorem Memory.read_write_of_ne {m : Memory} {i j : SlotIndex} (h : j ≠ i) (v : Byte) :
    Memory.read (Memory.write m i v) j = Memory.read m j := by
  rw [Memory.read_write, if_neg h]

section FieldStore
variable {n : Nat} (hn : n < 16) (m : Memory)
include hn

/-- The store to `glyph[n]`: that field of that slot, and no other field and no other slot (R32, R66). -/
theorem Memory.setGlyph_at (g : GlyphCode) :
    (∀ j : SlotIndex, j.toNat = n → Memory.glyph (Memory.setGlyph m (BitVec.ofNat 4 n) g) j = g) ∧
    (∀ j, Memory.dp (Memory.setGlyph m (BitVec.ofNat 4 n) g) j = Memory.dp m j ∧
      Memory.blink (Memory.setGlyph m (BitVec.ofNat 4 n) g) j = Memory.blink m j) ∧
    (∀ j : SlotIndex, j.toNat ≠ n → Memory.read (Memory.setGlyph m (BitVec.ofNat 4 n) g) j = Memory.read m j) := by
  refine ⟨fun j hj => ?_, fun j => ⟨Memory.dp_setGlyph .., Memory.blink_setGlyph ..⟩, fun j hj => ?_⟩
  · rw [Memory.glyph_setGlyph, if_pos ((slot_eq_ofNat_iff hn).2 hj)]
  · exact Memory.read_write_of_ne (mt (slot_eq_ofNat_iff hn).1 hj) _

/-- The store to `dp[n]`, likewise. -/
theorem Memory.setDp_at (b : Bool) :
    (∀ j : SlotIndex, j.toNat = n → Memory.dp (Memory.setDp m (BitVec.ofNat 4 n) b) j = b) ∧
    (∀ j, Memory.glyph (Memory.setDp m (BitVec.ofNat 4 n) b) j = Memory.glyph m j ∧
      Memory.blink (Memory.setDp m (BitVec.ofNat 4 n) b) j = Memory.blink m j) ∧
    (∀ j : SlotIndex, j.toNat ≠ n → Memory.read (Memory.setDp m (BitVec.ofNat 4 n) b) j = Memory.read m j) := by
  refine ⟨fun j hj => ?_, fun j => ⟨Memory.glyph_setDp .., Memory.blink_setDp ..⟩, fun j hj => ?_⟩
  · rw [Memory.dp_setDp, if_pos ((slot_eq_ofNat_iff hn).2 hj)]
  · exact Memory.read_write_of_ne (mt (slot_eq_ofNat_iff hn).1 hj) _

/-- The store to `blink[n]`, likewise. -/
theorem Memory.setBlink_at (b : Bool) :
    (∀ j : SlotIndex, j.toNat = n → Memory.blink (Memory.setBlink m (BitVec.ofNat 4 n) b) j = b) ∧
    (∀ j, Memory.glyph (Memory.setBlink m (BitVec.ofNat 4 n) b) j = Memory.glyph m j ∧
      Memory.dp (Memory.setBlink m (BitVec.ofNat 4 n) b) j = Memory.dp m j) ∧
    (∀ j : SlotIndex, j.toNat ≠ n → Memory.read (Memory.setBlink m (BitVec.ofNat 4 n) b) j = Memory.read m j) := by
  refine ⟨fun j hj => ?_, fun j => ⟨Memory.glyph_setBlink .., Memory.dp_setBlink ..⟩, fun j hj => ?_⟩
  · rw [Memory.blink_setBlink, if_pos ((slot_eq_ofNat_iff hn).2 hj)]
  · exact Memory.read_write_of_ne (mt (slot_eq_ofNat_iff hn).1 hj) _

end FieldStore

/-- Below capacity the post-increment of `WRITE` does not wrap (R25). -/
theorem cursor_succ_toNat {c : BitVec 5} (h : c.toNat < 16) : (c + 1).toNat = c.toNat + 1 :=
  BitVec.toNat_add_of_lt (show c.toNat + 1 < 32 by omega)

/-- The shape in which a buffer command leaves the state, as one update of the record. -/
theorem bufferUpdate_eq (s : State) (m : Memory) (c : BitVec 5) (r : Bool) :
    answer r ((s.withMemory m).withCursor c) = { s with memory := m, cursor := c, resp := r } := rfl

/-! ## What a buffer command depends on (R138) -/

/-- What a buffer command does to the buffer and the cursor, and what it answers, is fixed by the buffer and the cursor it
finds: in every valid state that has them it runs, does the same, and writes nothing else. -/
theorem exec_bufferCommand {i : Instr} (hi : isBufferCommand i = true) (m : Memory) (c : BitVec 5) :
    ∃ m' c' r, ∀ s : State, s.config.valid = true → s.memory = m → s.cursor = c →
      exec i s = .next (answer r ((s.withMemory m').withCursor c')) := by
  cases i with
  | clear => exact ⟨Memory.clearAll m, 0, false, by rintro s hv rfl -; exact exec_clear hv⟩
  | home => exact ⟨m, 0, false, by rintro s hv rfl -; exact exec_home hv⟩
  | setcursor pos => exact ⟨m, clampCursor pos, false, by rintro s hv rfl -; exact exec_setcursor hv pos⟩
  | write ch =>
    by_cases hc : c.toNat < 16
    · exact ⟨Memory.setGlyph m (BitVec.ofNat 4 c.toNat) (encodeChar ch), c + 1, true, by
        rintro s hv rfl rfl; exact exec_write hv hc ch⟩
    · exact ⟨m, c, false, by rintro s hv rfl rfl; exact exec_write_full hv (by omega) ch⟩
  | setdp d on =>
    by_cases hd : d.toNat < 16
    · exact ⟨Memory.setDp m (BitVec.ofNat 4 d.toNat) on, c, false, by
        rintro s hv rfl rfl; exact exec_setdp hv hd on⟩
    · exact ⟨m, c, false, by rintro s hv rfl rfl; exact exec_setdp_out hv (by omega) on⟩
  | blinkdigit d =>
    by_cases hd : d.toNat < 16
    · exact ⟨Memory.setBlink m (BitVec.ofNat 4 d.toNat) true, c, false, by
        rintro s hv rfl rfl; exact exec_blinkdigit hv hd⟩
    · exact ⟨m, c, false, by rintro s hv rfl rfl; exact exec_blinkdigit_out hv (by omega)⟩
  | noblinkdigit d =>
    by_cases hd : d.toNat < 16
    · exact ⟨Memory.setBlink m (BitVec.ofNat 4 d.toNat) false, c, false, by
        rintro s hv rfl rfl; exact exec_noblinkdigit hv hd⟩
    · exact ⟨m, c, false, by rintro s hv rfl rfl; exact exec_noblinkdigit_out hv (by omega)⟩
  | noblink => exact ⟨Memory.clearBlinks m, c, false, by rintro s hv rfl rfl; exact exec_noblink hv⟩
  | begin | display | nodisplay | setblinkinterval | refresh => cases hi

/-! ## What an instruction does to the buffer -/

/-- `BEGIN` is the only other instruction that writes the buffer (R34). -/
theorem memory_of_not_bufferCommand {i : Instr} (hi : isBufferCommand i = false) {s t : State}
    (h : exec i s = .next t) : t.memory = if i = .begin then Memory.clearAll s.memory else s.memory := by
  rcases exec_cases h with ⟨m, c, r, hb, -⟩ | ⟨rfl, rfl⟩ | ⟨rfl, rfl⟩ | ⟨rfl, rfl⟩ | ⟨ms, rfl, rfl⟩ | ⟨rfl, -, rfl⟩ |
    ⟨rfl, -, -, g, -, rfl⟩
  · rw [hi] at hb; cases hb
  all_goals simp [answer, shutdown, scanDigit_eq]

@[simp] theorem answer_memory (r : Bool) (s : State) : (answer r s).memory = s.memory := rfl

theorem memory_of_perform {s t u : State} (h : perform s u = .next t) : t.memory = u.memory :=
  congrArg State.memory (perform_eq_next.1 h).2

/-- Every way an instruction leaves the buffer. -/
theorem memory_exec_cases {i : Instr} {s t : State} (h : exec i s = .next t) :
    t.memory = s.memory ∨
    ((i = .clear ∨ i = .begin) ∧ t.memory = Memory.clearAll s.memory) ∨
    (∃ ch k, i = .write ch ∧ slotOfCursor s.cursor = some k ∧
      t.memory = Memory.setGlyph s.memory k (encodeChar ch)) ∨
    (∃ d on k, i = .setdp d on ∧ slotOfDigit d = some k ∧ t.memory = Memory.setDp s.memory k on) ∨
    (∃ d b k, (i = .blinkdigit d ∧ b = true ∨ i = .noblinkdigit d ∧ b = false) ∧ slotOfDigit d = some k ∧
      t.memory = Memory.setBlink s.memory k b) ∨
    (i = .noblink ∧ t.memory = Memory.clearBlinks s.memory) := by
  cases i with
  | clear => exact .inr (.inl ⟨.inl rfl, by simpa using memory_of_perform h⟩)
  | home => exact .inl (memory_of_perform h :)
  | setcursor pos => exact .inl (memory_of_perform h :)
  | write ch =>
    rw [exec, execWrite] at h
    split at h
    · exact .inl (memory_of_perform h :)
    · next k hk => exact .inr (.inr (.inl ⟨ch, k, rfl, hk, (memory_of_perform h :)⟩))
  | setdp d on =>
    rw [exec, execSetdp] at h
    split at h
    · exact .inl (memory_of_perform h :)
    · next k hk => exact .inr (.inr (.inr (.inl ⟨d, on, k, rfl, hk, (memory_of_perform h :)⟩)))
  | blinkdigit d =>
    rw [exec, execBlinkdigit] at h
    split at h
    · exact .inl (memory_of_perform h :)
    · next k hk => exact .inr (.inr (.inr (.inr (.inl ⟨d, true, k, .inl ⟨rfl, rfl⟩, hk, (memory_of_perform h :)⟩))))
  | noblinkdigit d =>
    rw [exec, execNoblinkdigit] at h
    split at h
    · exact .inl (memory_of_perform h :)
    · next k hk => exact .inr (.inr (.inr (.inr (.inl ⟨d, false, k, .inr ⟨rfl, rfl⟩, hk, (memory_of_perform h :)⟩))))
  | noblink => exact .inr (.inr (.inr (.inr (.inr ⟨rfl, by simpa using memory_of_perform h⟩))))
  | begin => exact .inr (.inl ⟨.inr rfl, by simpa using memory_of_not_bufferCommand rfl h⟩)
  | display | nodisplay | setblinkinterval | refresh => exact .inl (by simpa using memory_of_not_bufferCommand rfl h)

theorem toNat_of_slotOfDigit {d : Byte} {k : SlotIndex} (h : slotOfDigit d = some k) : d.toNat = k.toNat := by
  by_cases hd : d.toNat < 16
  · rw [slotOfDigit_some hd] at h
    exact ((slot_eq_ofNat_iff hd).1 (Option.some.inj h).symm).symm
  · rw [slotOfDigit_none (by omega)] at h
    cases h

/-- What an instruction can do to one decimal point (R140). -/
theorem dp_exec_cases {i : Instr} {s t : State} (h : exec i s = .next t) (j : SlotIndex) :
    Memory.dp t.memory j = Memory.dp s.memory j ∨
    (∃ digit on, i = .setdp digit on ∧ digit.toNat = j.toNat ∧ Memory.dp t.memory j = on) ∨
    ((i = .clear ∨ i = .begin) ∧ Memory.dp t.memory j = false) := by
  rcases memory_exec_cases h with hm | ⟨hi, hm⟩ | ⟨ch, k, -, -, hm⟩ | ⟨d, on, k, hi, hk, hm⟩ | ⟨d, b, k, -, -, hm⟩ |
    ⟨-, hm⟩ <;> rw [hm]
  · exact .inl rfl
  · exact .inr (.inr ⟨hi, Memory.dp_clearAll ..⟩)
  · exact .inl (Memory.dp_setGlyph ..)
  · rw [Memory.dp_setDp]
    by_cases hj : j = k
    · exact .inr (.inl ⟨d, on, hi, by rw [hj, toNat_of_slotOfDigit hk], if_pos hj⟩)
    · exact .inl (if_neg hj)
  · exact .inl (Memory.dp_setBlink ..)
  · exact .inl (Memory.dp_clearBlinks ..)

end Sys2Proof.Machine
end

section
/-! The statements of the family of the buffer commands. -/

namespace Sys2Proof.Machine

/-- Settles O14: the loop of `CLEAR` leaves the blank byte in every slot. -/
theorem clearBlanksBuffer : Obligations.ClearBlanksBuffer := by
  refine ⟨opcodeSelects_withFields .clear, fun s hv => ⟨_, exec_clear hv, ?_⟩⟩
  rw [answer_memory, State.withCursor_memory, State.withMemory_memory]
  exact ⟨fun i => ⟨Memory.read_clearAll .., Memory.glyph_clearAll .., Memory.dp_clearAll .., Memory.blink_clearAll ..⟩,
    bufferUpdate_eq ..⟩

/-- Settles O15: the one field `HOME` writes besides the answer. -/
theorem homeResetsCursorOnly : Obligations.HomeResetsCursorOnly :=
  ⟨opcodeSelects_withFields .home, fun _ hv => exec_home hv⟩

/-- Settles O16: five bits hold the clamped position. -/
theorem setcursorClamps : Obligations.SetcursorClamps :=
  ⟨opcodeSelects_withFields (.setcursor 0), fun _ pos hv => ⟨_, exec_setcursor hv pos, clampCursor_toNat pos, rfl⟩⟩

/-- Settles O17: the glyph store in the slot of the cursor, and the cursor that does not wrap below capacity. -/
theorem writeStoresAtCursor : Obligations.WriteStoresAtCursor := by
  refine ⟨opcodeSelects_withFields (.write 0), fun s ch hv => ⟨fun hfull => exec_write_full hv hfull ch, fun hc => ?_⟩⟩
  obtain ⟨hglyph, hflags, hother⟩ := Memory.setGlyph_at hc s.memory (encodeChar ch)
  exact ⟨_, exec_write hv hc ch, hglyph, hflags, hother, cursor_succ_toNat hc, rfl⟩

/-- Settles O18: the point store in the slot of the operand. -/
theorem setdpSetsPointOnly : Obligations.SetdpSetsPointOnly := by
  refine ⟨opcodeSelects_withFields (.setdp 0 false), fun s d on hv => ⟨fun hout => exec_setdp_out hv hout on,
    fun hd => ?_⟩⟩
  obtain ⟨hpoint, hfields, hother⟩ := Memory.setDp_at hd s.memory on
  exact ⟨_, exec_setdp hv hd on, hpoint, hfields, hother, rfl⟩

/-- Settles O19: the blink store of 1 in the slot of the operand. -/
theorem blinkdigitSetsFlagOnly : Obligations.BlinkdigitSetsFlagOnly := by
  refine ⟨opcodeSelects_withFields (.blinkdigit 0), fun s d hv => ⟨exec_blinkdigit_out hv, fun hd => ?_⟩⟩
  obtain ⟨hflag, hfields, hother⟩ := Memory.setBlink_at hd s.memory true
  exact ⟨_, exec_blinkdigit hv hd, hflag, hfields, hother, rfl⟩

/-- Settles O20: the blink store of 0 in the slot of the operand. -/
theorem noblinkdigitClearsFlagOnly : Obligations.NoblinkdigitClearsFlagOnly := by
  refine ⟨opcodeSelects_withFields (.noblinkdigit 0), fun s d hv => ⟨exec_noblinkdigit_out hv, fun hd => ?_⟩⟩
  obtain ⟨hflag, hfields, hother⟩ := Memory.setBlink_at hd s.memory false
  exact ⟨_, exec_noblinkdigit hv hd, hflag, hfields, hother, rfl⟩

/-- Settles O21: the loop of `NOBLINK` leaves every slot with its glyph and its point. -/
theorem noblinkClearsEveryFlag : Obligations.NoblinkClearsEveryFlag := by
  refine ⟨opcodeSelects_withFields .noblink, fun s hv => ⟨_, exec_noblink hv, ?_⟩⟩
  rw [answer_memory, State.withMemory_memory]
  exact ⟨fun j => ⟨Memory.blink_clearBlinks .., Memory.glyph_clearBlinks .., Memory.dp_clearBlinks ..⟩, rfl⟩

/-- Settles O23: both states have the same buffer and cursor, which is all a buffer command depends on. -/
theorem bufferCommandsTouchNoPin : Obligations.BufferCommandsTouchNoPin := by
  intro i s hi hv
  obtain ⟨m, c, r, hexec⟩ := exec_bufferCommand hi s.memory s.cursor
  exact ⟨_, hexec s hv rfl rfl, bufferUpdate_eq .., fun b => hexec { s with enabled := b } hv rfl rfl⟩

/-- Settles O24: `'.'` is written like any character without a code of its own, and each way an instruction leaves the
buffer keeps the points or is one of those named. -/
theorem pointIsAnOrdinaryCharacter : Obligations.PointIsAnOrdinaryCharacter := by
  refine ⟨fun s hv hc => ?_, fun i s t j h hchanged => (dp_exec_cases h j).resolve_left hchanged⟩
  obtain ⟨-, hwrite⟩ := writeStoresAtCursor.2 s 0x2E hv
  obtain ⟨t, hexec, hglyph, -, -, hcursor, hframe⟩ := hwrite hc
  have hdash : encodeChar 0x2E = glyphDash :=
    encodeChar_of_other (by decide) (by decide) (by decide) (by decide)
  exact ⟨t, hexec, fun j hj => (hglyph j hj).trans hdash, hcursor, by rw [hframe]⟩

end Sys2Proof.Machine
end

section
/-! The scheduler (42_mux_scheduler.md): the two lists of writes it makes, the latches each leaves, and the rest of the
state, which a list of writes does not touch. -/

namespace Sys2Proof.Machine

/-! ## The levels -/

section Levels
variable (c : Config)
@[simp] theorem comLevel_false : comLevel c false = !c.commonActiveLevel := rfl
@[simp] theorem comLevel_true : comLevel c true = c.commonActiveLevel := rfl
@[simp] theorem segLevel_false : segLevel c false = !c.segmentActiveLevel := rfl
end Levels

/-! ## The pins of a valid configuration in order -/

section Pins
variable {c : Config} (hv : c.valid = true)
include hv

theorem map_segmentPin_range : (List.range numSegments).map (segmentPin c) = c.segmentPins := by
  refine List.ext_getElem (by simp [valid_segments_length hv, numSegments]) fun k _ hk => ?_
  rw [List.getElem_map, List.getElem_range, segmentPin_eq_getElem hk]

theorem map_commonPin_range : (List.range c.displaysCount).map (commonPin c) = c.commonDriverPins := by
  refine List.ext_getElem (by simp [valid_commons_length hv]) fun i _ hi => ?_
  rw [List.getElem_map, List.getElem_range, commonPin_eq_getElem hi]

/-- What `BEGIN` configures is every pin of the configuration (R152). -/
theorem configuredPins_eq : configuredPins c = c.segmentPins ++ c.commonDriverPins := by
  rw [configuredPins, map_segmentPin_range hv, map_commonPin_range hv]

/-- The writes of the shutdown are one for every pin of the configuration (R151). -/
theorem shutdownWrites_eq :
    shutdownWrites c = c.commonDriverPins.map (fun p => (p, !c.commonActiveLevel)) ++
      c.segmentPins.map (fun p => (p, !c.segmentActiveLevel)) := by
  conv_rhs => rw [← map_segmentPin_range hv, ← map_commonPin_range hv, List.map_map, List.map_map]
  rfl

end Pins

/-! ## Lists of writes -/

/-- With no unused pin among them, every write reaches the collaborator (R10). -/
theorem length_writeCalls {ws : List (PinId × Level)} (h : ∀ w ∈ ws, w.1 ≠ unusedPin) :
    (writeCalls ws).length = ws.length := by
  rw [writeCalls, List.length_map, List.filter_eq_self.2 fun w hw => bne_iff_ne.2 (h w hw)]

/-- No write sets a latch of the sentinel (R10). -/
theorem line_gpioWrites_unusedPin (ws : List (PinId × Level)) (s : State) :
    (gpioWrites ws s).line unusedPin = s.line unusedPin := by
  induction ws generalizing s with
  | nil => rfl
  | cons w ws ih => rw [gpioWrites_cons, ih, State.line_gpioWrite, if_neg fun h => h.2 rfl]

/-- Writes to lines of the display leave every pin that is not wired (R36). -/
theorem line_gpioWrites_of_not_wired {c : Config} (hv : c.valid = true) {ws : List (PinId × Level)}
    (hws : ∀ w ∈ ws, (∃ i < c.displaysCount, w.1 = commonPin c i) ∨ ∃ k < 8, w.1 = segmentPin c k)
    {p : PinId} (hp : p ∉ c.wiredPins) (s : State) : (gpioWrites ws s).line p = s.line p := by
  by_cases hu : p = unusedPin
  · rw [hu, line_gpioWrites_unusedPin]
  · refine line_gpioWrites_of_not_mem (fun w hw he => hp ?_) s
    rcases hws w hw with ⟨i, hi, hpin⟩ | ⟨k, hk, hpin⟩
    · have hwi : p = commonPin c i := he.symm.trans hpin
      exact hwi ▸ commonPin_mem_wiredPins hv hi (hwi ▸ hu)
    · have hwk : p = segmentPin c k := he.symm.trans hpin
      exact hwk ▸ segmentPin_mem_wiredPins hv hk (hwk ▸ hu)

/-- A list of writes as an update of the record. -/
theorem gpioWrites_frame (ws : List (PinId × Level)) (s : State) :
    gpioWrites ws s = { s with lines := (gpioWrites ws s).lines, trace := (gpioWrites ws s).trace } :=
  (gpioWrites_eq ws s).trans (by rw [gpioWrites_trace]; rfl)

/-! ## Shutdown -/

theorem mem_shutdownWrites {c : Config} {w : PinId × Level} :
    w ∈ shutdownWrites c ↔ (∃ i < c.displaysCount, w = (commonPin c i, !c.commonActiveLevel)) ∨
      ∃ k < 8, w = (segmentPin c k, !c.segmentActiveLevel) := by
  simp [shutdownWrites, numSegments, eq_comm]

section Shutdown
variable {s : State} (hv : s.config.valid = true)
include hv

theorem shutdown_trace : (shutdown s).trace = s.trace ++ writeCalls
    (s.config.commonDriverPins.map (fun p => (p, !s.config.commonActiveLevel)) ++
      s.config.segmentPins.map (fun p => (p, !s.config.segmentActiveLevel))) := by
  rw [shutdown, gpioWrites_trace, shutdownWrites_eq hv]

theorem line_shutdown_of_not_wired {p : PinId} (hp : p ∉ s.config.wiredPins) : (shutdown s).line p = s.line p := by
  refine line_gpioWrites_of_not_wired hv (fun w hw => ?_) hp s
  rcases mem_shutdownWrites.1 hw with ⟨i, hi, rfl⟩ | ⟨k, hk, rfl⟩
  · exact .inl ⟨i, hi, rfl⟩
  · exact .inr ⟨k, hk, rfl⟩

/-- Every write of the shutdown to a common line is of its inactive level, for no segment line shares its pin. -/
theorem line_shutdown_common {i : Nat} (hi : i < s.config.displaysCount) (hw : commonWired s.config i) :
    (shutdown s).line (commonPin s.config i) = .driven (!s.config.commonActiveLevel) := by
  refine line_gpioWrites_of_mem hw (mem_shutdownWrites.2 (.inl ⟨i, hi, rfl⟩)) (fun w hmem he => ?_) s
  rcases mem_shutdownWrites.1 hmem with ⟨j, hj, rfl⟩ | ⟨k, hk, rfl⟩
  · rfl
  · exact absurd he.symm (commonPin_ne_segmentPin hv hi hk hw)

/-- Likewise for a segment line. -/
theorem line_shutdown_segment {k : Nat} (hk : k < 8) (hw : segmentWired s.config k) :
    (shutdown s).line (segmentPin s.config k) = .driven (!s.config.segmentActiveLevel) := by
  refine line_gpioWrites_of_mem hw (mem_shutdownWrites.2 (.inr ⟨k, hk, rfl⟩)) (fun w hmem he => ?_) s
  rcases mem_shutdownWrites.1 hmem with ⟨i, hi, rfl⟩ | ⟨j, hj, rfl⟩
  · exact absurd he (commonPin_ne_segmentPin hv hi hk fun hu => hw (he.symm.trans hu))
  · rfl

theorem shutdown_allInactive : (shutdown s).allInactive := by
  have hconfig : (shutdown s).config = s.config := gpioWrites_config _ _
  simp only [State.allInactive, State.commonInactive, State.segmentDark, hconfig]
  exact ⟨fun _ => line_shutdown_common hv, fun _ => line_shutdown_segment hv⟩

end Shutdown

theorem State.allInactive_congr {s t : State} (hconfig : t.config = s.config) (hlines : t.lines = s.lines) :
    t.allInactive ↔ s.allInactive := by
  simp only [State.allInactive, State.commonInactive, State.segmentDark, State.line, hconfig, hlines]

theorem State.commonAsserted_iff {s : State} {c : Config} (h : s.config = c) (i : Nat) :
    s.commonAsserted i ↔ s.line (commonPin c i) = .driven c.commonActiveLevel := h ▸ Iff.rfl

theorem State.commonInactive_iff {s : State} {c : Config} (h : s.config = c) (i : Nat) :
    s.commonInactive i ↔ s.line (commonPin c i) = .driven (!c.commonActiveLevel) := h ▸ Iff.rfl

/-! ## `NODISPLAY` and the history -/

theorem Boot.afterShutdown_ne_fresh (b : Boot) : b.afterShutdown ≠ .fresh := by cases b <;> decide

theorem Boot.afterShutdown_eq_begun_iff (b : Boot) : b.afterShutdown = .begun ↔ b = .begun := by cases b <;> decide

/-! ## The refresh step -/

/-- The row of the table an enabled refresh shows (R157). -/
theorem glyphRow_effectiveGlyph {s : State} {a : SlotIndex} (h : (Memory.glyph s.memory a).toNat ≤ 17) :
    ∃ g : Fin 18, glyphRow (effectiveGlyph s a) = some g ∧
      g.val = if Memory.blink s.memory a = true ∧ s.blinkOff = true then 16
        else (Memory.glyph s.memory a).toNat := by
  by_cases hb : Memory.blink s.memory a = true ∧ s.blinkOff = true
  · rw [effectiveGlyph, if_pos (by simpa using hb), if_pos hb]
    exact ⟨16, rfl, rfl⟩
  · rw [effectiveGlyph, if_neg (by simpa using hb), if_neg hb]
    exact ⟨_, glyphRow_some (by omega), rfl⟩

section Refresh
variable {c : Config} {a : Nat} {mask : Byte} {dp : Bool}

/-- The ten writes of a refresh, written out (R155, R158). -/
theorem refreshWrites_eq : refreshWrites c a mask dp =
    (commonPin c (previousDigit c.displaysCount a), !c.commonActiveLevel) ::
      ([0, 1, 2, 3, 4, 5, 6].map (fun k => (segmentPin c k, segLevel c (mask.getLsbD k))) ++
        [(segmentPin c 7, segLevel c dp), (commonPin c a, c.commonActiveLevel)]) := rfl

theorem mem_refreshWrites {w : PinId × Level} : w ∈ refreshWrites c a mask dp ↔
    w = (commonPin c (previousDigit c.displaysCount a), !c.commonActiveLevel) ∨
    (∃ k < 8, w = (segmentPin c k, segLevel c (segmentLitBit mask dp k))) ∨
    w = (commonPin c a, c.commonActiveLevel) := by
  simp [refreshWrites, numSegments, eq_comm]

variable (hv : c.valid = true) (ha : a < c.displaysCount) (s : State)
include hv ha

theorem line_refresh_of_not_wired {p : PinId} (hp : p ∉ c.wiredPins) :
    (gpioWrites (refreshWrites c a mask dp) s).line p = s.line p := by
  refine line_gpioWrites_of_not_wired hv (fun w hw => ?_) hp s
  rcases mem_refreshWrites.1 hw with rfl | ⟨k, hk, rfl⟩ | rfl
  · exact .inl ⟨_, previousDigit_lt ha, rfl⟩
  · exact .inr ⟨k, hk, rfl⟩
  · exact .inl ⟨a, ha, rfl⟩

/-- Each segment line is written once, and no common line shares its pin. -/
theorem line_refresh_segment {k : Nat} (hk : k < 8) (hw : segmentWired c k) :
    (gpioWrites (refreshWrites c a mask dp) s).line (segmentPin c k) =
      .driven (segLevel c (segmentLitBit mask dp k)) := by
  have hcommon {i : Nat} (hi : i < c.displaysCount) : commonPin c i ≠ segmentPin c k := fun he =>
    commonPin_ne_segmentPin hv hi hk (fun hu => hw (he.symm.trans hu)) he
  refine line_gpioWrites_of_mem hw (mem_refreshWrites.2 (.inr (.inl ⟨k, hk, rfl⟩))) (fun w hmem he => ?_) s
  rcases mem_refreshWrites.1 hmem with rfl | ⟨j, hj, rfl⟩ | rfl
  · exact absurd he (hcommon (previousDigit_lt ha))
  · rw [segmentPin_inj hv hk hj hw he.symm]
  · exact absurd he (hcommon ha)

omit hv ha in
/-- The common line of the digit is written last. -/
theorem line_refresh_active (hw : commonWired c a) :
    (gpioWrites (refreshWrites c a mask dp) s).line (commonPin c a) = .driven c.commonActiveLevel :=
  line_gpioWrites_append_self hw (_ :: _) _ s

/-- With more than one digit, the common line of the previous one is written once, to its inactive level. -/
theorem line_refresh_previous (hne : previousDigit c.displaysCount a ≠ a)
    (hw : commonWired c (previousDigit c.displaysCount a)) :
    (gpioWrites (refreshWrites c a mask dp) s).line (commonPin c (previousDigit c.displaysCount a)) =
      .driven (!c.commonActiveLevel) := by
  have hp := previousDigit_lt ha
  refine line_gpioWrites_of_mem hw (mem_refreshWrites.2 (.inl rfl)) (fun w hmem he => ?_) s
  rcases mem_refreshWrites.1 hmem with rfl | ⟨k, hk, rfl⟩ | rfl
  · rfl
  · exact absurd he.symm (commonPin_ne_segmentPin hv hp hk hw)
  · exact absurd (commonPin_inj hv hp ha hw he.symm) hne

/-- The common lines of the other digits are not written. -/
theorem line_refresh_other {i : Nat} (hi : i < c.displaysCount) (hia : i ≠ a)
    (hip : i ≠ previousDigit c.displaysCount a) (hw : commonWired c i) :
    (gpioWrites (refreshWrites c a mask dp) s).line (commonPin c i) = s.line (commonPin c i) := by
  refine line_gpioWrites_of_not_mem (fun w hmem he => ?_) s
  rcases mem_refreshWrites.1 hmem with rfl | ⟨k, hk, rfl⟩ | rfl
  · exact hip (commonPin_inj hv hi (previousDigit_lt ha) hw he.symm)
  · exact commonPin_ne_segmentPin hv hi hk hw he.symm
  · exact hia (commonPin_inj hv hi ha hw he.symm)

end Refresh

/-- An enabled refresh as the blink update, the ten writes, and the index (R155). -/
theorem exec_refresh_writes {s : State} (hv : s.config.valid = true) (he : s.enabled = true)
    (ha : s.activeDigit.toNat < s.config.displaysCount) {g : Fin 18}
    (hg : glyphRow (effectiveGlyph (blinkUpdate s) s.activeDigit) = some g) :
    exec .refresh s = .next (answer false
      ((gpioWrites (refreshWrites s.config s.activeDigit.toNat s.config.glyphMask[g]
        (Memory.dp s.memory s.activeDigit)) (blinkUpdate s)).withActiveDigit
          (BitVec.ofNat 4 (nextDigit s.config.displaysCount s.activeDigit.toNat)))) := by
  rw [exec_refresh hv he ha hg, scanDigit_eq, blinkUpdate_config, blinkUpdate_memory, blinkUpdate_activeDigit]
  rfl

/-- Writes after a blink update, as one update of the record. -/
theorem gpioWrites_blinkUpdate_frame (ws : List (PinId × Level)) (s : State) :
    gpioWrites ws (blinkUpdate s) =
      { s with blinkOff := (gpioWrites ws (blinkUpdate s)).blinkOff
               blinkTimer := (gpioWrites ws (blinkUpdate s)).blinkTimer
               lines := (gpioWrites ws (blinkUpdate s)).lines
               trace := (gpioWrites ws (blinkUpdate s)).trace } := by
  rw [gpioWrites_blinkOff, gpioWrites_blinkTimer]
  exact (gpioWrites_frame ws (blinkUpdate s)).trans (congrArg
    (fun u : State => { u with lines := (gpioWrites ws (blinkUpdate s)).lines
                               trace := (gpioWrites ws (blinkUpdate s)).trace }) (blinkUpdate_eq s))

/-- The index after a refresh: no digit count of a valid configuration is beyond its four bits (R24, R166). -/
theorem nextDigit_toNat {c : Config} (hv : c.valid = true) (a : Nat) :
    (BitVec.ofNat 4 (nextDigit c.displaysCount a)).toNat = (a + 1) % c.displaysCount := by
  have hlt : nextDigit c.displaysCount a < c.displaysCount := nextDigit_lt (valid_count_pos hv)
  have hle := valid_count_le hv
  rw [BitVec.toNat_ofNat, Nat.mod_eq_of_lt (by omega), nextDigit]

end Sys2Proof.Machine
end

section
/-! The statements of the family of the scheduler. -/

namespace Sys2Proof.Machine

/-- Settles O27: what the list of writes of the shutdown does to the trace, to each line and to nothing else. -/
theorem shutdownDrivesAllInactive : Obligations.ShutdownDrivesAllInactive := by
  intro s hv
  refine ⟨shutdown_trace hv, fun hwired => ?_, shutdown_allInactive hv, fun _ => line_shutdown_of_not_wired hv,
    gpioWrites_frame ..⟩
  rw [shutdown_trace hv, List.length_append, length_writeCalls]
  · simp [valid_commons_length hv, valid_segments_length hv, Nat.add_assoc]
  · intro w hw
    rcases List.mem_append.1 hw with hw | hw <;> obtain ⟨p, hp, rfl⟩ := List.mem_map.1 hw
    · exact hwired p (List.mem_append_right _ hp)
    · exact hwired p (List.mem_append_left _ hp)

/-- Settles O28: the shutdown runs after the pins are configured, which only extends the trace. -/
theorem beginConfiguresClearsEnables : Obligations.BeginConfiguresClearsEnables := by
  refine ⟨opcodeSelects_withFields .begin, fun s hv => ⟨_, exec_begin hv, ?_⟩⟩
  have hblank : ∀ i, Memory.read (Memory.clearAll s.memory) i = 0x10#8 := Memory.read_clearAll s.memory
  obtain ⟨htrace, -, hinactive, hother, hframe⟩ :=
    shutdownDrivesAllInactive (gpioConfigs (configuredPins s.config) s) (by rw [gpioConfigs_eq]; exact hv)
  -- Only these facts about the shut-down state and the blank buffer matter below, not how they are computed.
  generalize shutdown (gpioConfigs (configuredPins s.config) s) = down at *
  generalize Memory.clearAll s.memory = blank at *
  rw [gpioConfigs_eq, configuredPins_eq hv] at htrace hother hframe
  refine ⟨htrace, (State.allInactive_congr rfl rfl).2 hinactive, hother, hblank, ?_⟩
  rw [hframe]
  rfl

/-- Settles O30: the shutdown, and a refresh of the disabled state it leaves. -/
theorem nodisplayShutsDown : Obligations.NodisplayShutsDown := by
  refine ⟨opcodeSelects_withFields .nodisplay, fun s hv => ⟨_, exec_nodisplay hv, ?_⟩⟩
  obtain ⟨htrace, -, hinactive, hother, hframe⟩ := shutdownDrivesAllInactive s hv
  have hvalid : (shutdown s).config.valid = true := by rw [hframe]; exact hv
  refine ⟨htrace, (State.allInactive_congr rfl rfl).2 hinactive, hother, ?_, s.boot.afterShutdown_ne_fresh,
    s.boot.afterShutdown_eq_begun_iff, exec_refresh_disabled hvalid rfl⟩
  rw [hframe]
  rfl

/-- Settles O32: the blink update, then the ten writes of the scan of the active digit, latch by latch. -/
theorem refreshLightsTheActiveDigit : Obligations.RefreshLightsTheActiveDigit := by
  refine ⟨opcodeSelects_withFields .refresh, fun s hv he ha hg => ?_⟩
  have hg' : (Memory.glyph (blinkUpdate s).memory s.activeDigit).toNat ≤ 17 := by rwa [blinkUpdate_memory]
  obtain ⟨g, hrow, hval⟩ := glyphRow_effectiveGlyph hg'
  rw [blinkUpdate_memory] at hval
  refine ⟨_, g, exec_refresh_writes hv he ha hrow, ?_⟩
  have hconfig (ws : List (PinId × Level)) : (gpioWrites ws (blinkUpdate s)).config = s.config := by simp
  refine ⟨?phase, gpioWrites_blinkOff .., gpioWrites_blinkTimer .., ?calls, fun k hk hw => ?segment,
    line_refresh_segment hv ha _ (by decide), fun hw => ?active, fun i hi hia hw => ⟨?previous, fun hip => ?other⟩,
    fun p hp => ?unwired, nextDigit_toNat hv _, ?frame⟩
  case phase => simpa [answer] using hval
  case calls => exact (gpioWrites_trace ..).trans (by rw [blinkUpdate_trace, refreshWrites_eq]; rfl)
  case segment =>
    refine (line_refresh_segment hv ha _ (by omega) hw).trans ?_
    rw [segmentLitBit, if_neg (by omega)]
  case active => exact (State.commonAsserted_iff (hconfig _) _).2 (line_refresh_active _ hw)
  case previous =>
    rintro rfl
    exact (State.commonInactive_iff (hconfig _) _).2 (line_refresh_previous hv ha _ hia hw)
  case other => exact (line_refresh_other hv ha _ hi hia hip hw).trans (blinkUpdate_line ..)
  case unwired => exact (line_refresh_of_not_wired hv ha _ hp).trans (blinkUpdate_line ..)
  case frame =>
    rw [gpioWrites_blinkUpdate_frame]
    rfl

/-- Settles O29: the one field `DISPLAY` writes besides the answer. -/
theorem displaySetsEnabledOnly : Obligations.DisplaySetsEnabledOnly :=
  ⟨opcodeSelects_withFields .display, fun _ hv => exec_display hv⟩

/-- Settles O31: a disabled refresh only answers. -/
theorem refreshWhileDisabledIsNoop : Obligations.RefreshWhileDisabledIsNoop :=
  fun _ hv he => exec_refresh_disabled hv he

end Sys2Proof.Machine
end

section
/-! The blink timer (43_blink_timer.md): the interval in ticks (R184), the two cases of the update in either timebase
(R181, R182) and their way through a refresh, and, in tick-count mode, a refresh whatever is on the input ports. -/

namespace Sys2Proof.Machine

/-! ## The stored interval -/

theorem tickPeriodEff_toNat_pos {c : Config} (hv : c.valid = true) : 0 < c.tickPeriodEff.toNat :=
  Nat.pos_of_ne_zero (BitVec.toNat_ne.1 (tickPeriodEff_ne_zero hv))

/-- The product in `MsToTicks` does not overflow (R184). -/
theorem ms_mul_thousand_lt (ms : BitVec 16) : ms.toNat * 1000 < 2 ^ 32 := by
  have hms := ms.isLt
  omega

theorem intervalOf_tickCount {c : Config} (h : c.timebase = .tickCount) (ms : BitVec 16) :
    c.intervalOf ms = c.msToTicks ms := by
  rw [Config.intervalOf, h]

theorem intervalOf_tickCount_toNat {c : Config} (h : c.timebase = .tickCount) (ms : BitVec 16) :
    (c.intervalOf ms).toNat = ms.toNat * 1000 / c.tickPeriodEff.toNat := by
  have hlt : ms.toNat * 1000 / c.tickPeriodEff.toNat < 2 ^ 32 :=
    (Nat.div_le_self _ _).trans_lt (ms_mul_thousand_lt ms)
  rw [intervalOf_tickCount h, Config.msToTicks, BitVec.toNat_ofNat, Nat.mod_eq_of_lt hlt]

/-! ## The two cases of the update -/

section BlinkUpdate
variable {s : State}

/-- The modular difference of R181 as the statements write it. -/
theorem now_sub_blinkTimer_toNat (s : State) :
    (s.ports.now - s.blinkTimer).toNat = (s.ports.now.toNat + 2 ^ 32 - s.blinkTimer.toNat) % 2 ^ 32 := by
  have htimer := s.blinkTimer.isLt
  rw [BitVec.toNat_sub]
  congr 1
  omega

theorem blinkUpdate_wall_toggles (h : s.config.timebase = .wallClock)
    (hdue : s.blinkInterval.toNat ≤ (s.ports.now.toNat + 2 ^ 32 - s.blinkTimer.toNat) % 2 ^ 32) :
    (blinkUpdate s).blinkOff = !s.blinkOff ∧ (blinkUpdate s).blinkTimer = s.ports.now := by
  rw [← now_sub_blinkTimer_toNat] at hdue
  exact Prod.mk.inj ((blinkUpdate_wall h).trans (if_pos hdue))

theorem blinkUpdate_wall_waits (h : s.config.timebase = .wallClock)
    (hearly : (s.ports.now.toNat + 2 ^ 32 - s.blinkTimer.toNat) % 2 ^ 32 < s.blinkInterval.toNat) :
    (blinkUpdate s).blinkOff = s.blinkOff ∧ (blinkUpdate s).blinkTimer = s.blinkTimer := by
  rw [← now_sub_blinkTimer_toNat] at hearly
  exact Prod.mk.inj ((blinkUpdate_wall h).trans (if_neg (Nat.not_le.2 hearly)))

/-- In tick-count mode the counter of a reachable state does not wrap when it counts one (R182). -/
theorem blinkTimer_succ_toNat (hinv : s.Inv) (h : s.config.timebase = .tickCount) :
    (s.blinkTimer + 1).toNat = s.blinkTimer.toNat + 1 := by
  have htimer := hinv.timer_legal
  simp only [timerLegal, h] at htimer
  exact BitVec.toNat_add_of_lt (show s.blinkTimer.toNat + 1 < 2 ^ 32 by omega)

theorem blinkUpdate_tick_toggles (hinv : s.Inv) (h : s.config.timebase = .tickCount)
    (hdue : s.blinkInterval.toNat ≤ s.blinkTimer.toNat + 1) :
    (blinkUpdate s).blinkOff = !s.blinkOff ∧ (blinkUpdate s).blinkTimer = 0 := by
  rw [← blinkTimer_succ_toNat hinv h] at hdue
  exact Prod.mk.inj ((blinkUpdate_tick h).trans (if_pos hdue))

theorem blinkUpdate_tick_counts (hinv : s.Inv) (h : s.config.timebase = .tickCount)
    (hearly : s.blinkTimer.toNat + 1 < s.blinkInterval.toNat) :
    (blinkUpdate s).blinkOff = s.blinkOff ∧ (blinkUpdate s).blinkTimer.toNat = s.blinkTimer.toNat + 1 := by
  rw [← blinkTimer_succ_toNat hinv h] at hearly ⊢
  obtain ⟨hphase, hcount⟩ := Prod.mk.inj ((blinkUpdate_tick h).trans (if_neg (Nat.not_le.2 hearly)))
  exact ⟨hphase, congrArg BitVec.toNat hcount⟩

/-- The bound of the counter (R182), whatever the counter was before. -/
theorem blinkUpdate_tick_lt (hinv : s.Inv) (h : s.config.timebase = .tickCount) :
    (blinkUpdate s).blinkTimer.toNat < max s.blinkInterval.toNat 1 := by
  rcases Nat.lt_or_ge (s.blinkTimer.toNat + 1) s.blinkInterval.toNat with hearly | hdue
  · rw [(blinkUpdate_tick_counts hinv h hearly).2]
    exact lt_max_of_lt_left hearly
  · rw [(blinkUpdate_tick_toggles hinv h hdue).2]
    exact lt_max_of_lt_right (by decide)

end BlinkUpdate

/-! ## The update in an enabled refresh -/

/-- An enabled refresh of a legal digit runs, as a scan of the digit after the blink update (R155). -/
theorem exec_refresh_runs {s : State} (hv : s.config.valid = true) (he : s.enabled = true)
    (ha : s.activeDigit.toNat < s.config.displaysCount) (hg : (Memory.glyph s.memory s.activeDigit).toNat ≤ 17) :
    ∃ g, glyphRow (effectiveGlyph (blinkUpdate s) s.activeDigit) = some g ∧
      exec .refresh s = .next (answer false (scanDigit g (blinkUpdate s))) := by
  obtain ⟨g, hrow⟩ := effectiveGlyph_row (s := blinkUpdate s) (a := s.activeDigit) (by rwa [blinkUpdate_memory])
  exact ⟨g, hrow, exec_refresh hv he ha hrow⟩

section Scan
variable (g : Fin 18) (s : State)

/-- The scan leaves the phase to the blink update. -/
@[simp] theorem scanDigit_blinkOff : (scanDigit g s).blinkOff = s.blinkOff := by
  rw [scanDigit_eq, State.withActiveDigit_blinkOff, gpioWrites_blinkOff]

/-- The scan leaves the timer to the blink update. -/
@[simp] theorem scanDigit_blinkTimer : (scanDigit g s).blinkTimer = s.blinkTimer := by
  rw [scanDigit_eq, State.withActiveDigit_blinkTimer, gpioWrites_blinkTimer]

end Scan

/-! ## A refresh and the input ports -/

theorem gpioWrite_withPorts (w : PinId × Level) (s : State) (p : Ports) :
    gpioWrite (s.withPorts p) w = (gpioWrite s w).withPorts p := by
  unfold gpioWrite
  split <;> rfl

theorem gpioWrites_withPorts (ws : List (PinId × Level)) (s : State) (p : Ports) :
    gpioWrites ws (s.withPorts p) = (gpioWrites ws s).withPorts p := by
  induction ws generalizing s with
  | nil => rfl
  | cons w ws ih => rw [gpioWrites_cons, gpioWrites_cons, gpioWrite_withPorts, ih]

theorem scanDigit_withPorts (g : Fin 18) (s : State) (p : Ports) :
    scanDigit g (s.withPorts p) = (scanDigit g s).withPorts p := by
  rw [scanDigit_eq, gpioWrites_withPorts]
  rfl

/-- In tick-count mode the update reads no input port (R182). -/
theorem blinkUpdate_tick_withPorts {s : State} (h : s.config.timebase = .tickCount) (p : Ports) :
    blinkUpdate (s.withPorts p) = (blinkUpdate s).withPorts p := by
  simp only [blinkUpdate, State.withPorts_config, h]
  rw [blinkUpdateTick, blinkUpdateTick, apply_ite (fun u : State => u.withPorts p)]
  rfl

/-- In tick-count mode an enabled refresh does the same whatever is on the input ports. -/
theorem exec_refresh_tick_withPorts {s : State} (hv : s.config.valid = true) (he : s.enabled = true)
    (ha : s.activeDigit.toNat < s.config.displaysCount) {g : Fin 18}
    (hg : glyphRow (effectiveGlyph (blinkUpdate s) s.activeDigit) = some g)
    (h : s.config.timebase = .tickCount) (p : Ports) :
    exec .refresh (s.withPorts p) = .next ((answer false (scanDigit g (blinkUpdate s))).withPorts p) := by
  have hports := blinkUpdate_tick_withPorts h p
  have hrow : glyphRow (effectiveGlyph (blinkUpdate (s.withPorts p)) s.activeDigit) = some g := by
    rw [hports]
    exact hg
  rw [exec_refresh (s := s.withPorts p) hv he ha hrow, hports, scanDigit_withPorts]
  rfl

end Sys2Proof.Machine
end

section
/-! The statements of the family of the blink timer. -/

namespace Sys2Proof.Machine

/-- Settles O36: the command stores `intervalOf ms`, which is `ms` or the quotient by the timebase. -/
theorem setblinkintervalConverts : Obligations.SetblinkintervalConverts :=
  ⟨opcodeSelects_withFields (.setblinkinterval 0), fun _ ms hv =>
    ⟨_, exec_setblinkinterval hv ms, fun h => intervalOf_wallClock_toNat h ms,
      fun h => intervalOf_tickCount_toNat h ms, ms_mul_thousand_lt ms, tickPeriodEff_toNat_pos hv, rfl⟩⟩

/-- Settles O37: the refresh runs, and leaves the phase and the timer of the wall-clock update. -/
theorem wallClockBlinkUpdate : Obligations.WallClockBlinkUpdate := by
  intro s hv he ha hg h
  obtain ⟨g, -, hrun⟩ := exec_refresh_runs hv he ha hg
  refine ⟨_, hrun, ?_⟩
  rw [answer, State.withResp_blinkOff, State.withResp_blinkTimer, scanDigit_blinkOff, scanDigit_blinkTimer]
  exact ⟨blinkUpdate_wall_toggles h, blinkUpdate_wall_waits h⟩

/-- Settles O38: the refresh runs, leaves the phase and the counter of the tick-count update, and does so whatever is on
the ports. -/
theorem tickCountBlinkUpdate : Obligations.TickCountBlinkUpdate := by
  intro s hinv he h
  have hv := hinv.config_valid
  have ha := hinv.active_lt
  obtain ⟨g, hrow, hrun⟩ := exec_refresh_runs hv he ha (hinv.glyphs_legal s.activeDigit)
  refine ⟨_, hrun, ?_, ?_, ?_, fun now => exec_refresh_tick_withPorts hv he ha hrow h { s.ports with now := now }⟩
  all_goals rw [answer, State.withResp_blinkTimer, scanDigit_blinkTimer]
  · rw [State.withResp_blinkOff, scanDigit_blinkOff]
    exact blinkUpdate_tick_toggles hinv h
  · rw [State.withResp_blinkOff, scanDigit_blinkOff]
    exact blinkUpdate_tick_counts hinv h
  · exact blinkUpdate_tick_lt hinv h

end Sys2Proof.Machine
end

section
/-! Completion (60_exceptions.md R200): what an event and a step need in order to complete, that every instruction keeps
it, and that with it both phases of a step run. -/

namespace Sys2Proof.Machine

/-- What the refusals of the model exclude (R7, R24, R121), with the glyph bound in every slot, so that it stays with
whichever digit is active next. It is the part of the invariant that completion depends on. -/
structure State.Runnable (s : State) : Prop where
  config_valid : s.config.valid = true
  active_lt : s.activeDigit.toNat < s.config.displaysCount
  glyphs_legal : glyphsLegal s

theorem State.Inv.runnable {s : State} (h : s.Inv) : s.Runnable := ⟨h.config_valid, h.active_lt, h.glyphs_legal⟩

theorem sample_keeps_runnable {s : State} (h : s.Runnable) : (sample s).Runnable :=
  ⟨h.config_valid, h.active_lt, h.glyphs_legal⟩

theorem answer_keeps_runnable {s : State} (h : s.Runnable) (r : Bool) : (answer r s).Runnable :=
  ⟨h.config_valid, h.active_lt, h.glyphs_legal⟩

/-! ## What every instruction keeps -/

/-- A glyph code is stored by `encode` or as the blank code, and otherwise stays (I-a). -/
theorem exec_keeps_glyphsLegal {i : Instr} {s t : State} (hs : glyphsLegal s) (h : exec i s = .next t) :
    glyphsLegal t := by
  intro j
  rcases memory_exec_cases h with hm | ⟨-, hm⟩ | ⟨ch, k, -, -, hm⟩ | ⟨d, on, k, -, -, hm⟩ | ⟨d, b, k, -, -, hm⟩ |
    ⟨-, hm⟩ <;> rw [hm]
  · exact hs j
  · rw [Memory.glyph_clearAll]
    decide
  · rw [Memory.glyph_setGlyph]
    split
    · exact encodeChar_le ch
    · exact hs j
  · rw [Memory.glyph_setDp]
    exact hs j
  · rw [Memory.glyph_setBlink]
    exact hs j
  · rw [Memory.glyph_clearBlinks]
    exact hs j

/-- The active digit stays, or `NODISPLAY` makes it 0, or a refresh moves it on (R34). -/
theorem activeDigit_exec_cases {i : Instr} {s t : State} (h : exec i s = .next t) :
    t.activeDigit = s.activeDigit ∨ t.activeDigit = 0 ∨
      t.activeDigit = BitVec.ofNat 4 (nextDigit s.config.displaysCount s.activeDigit.toNat) := by
  rcases exec_cases h with ⟨m, c, r, -, rfl⟩ | ⟨-, rfl⟩ | ⟨-, rfl⟩ | ⟨-, rfl⟩ | ⟨ms, -, rfl⟩ | ⟨-, -, rfl⟩ |
    ⟨-, -, -, g, -, rfl⟩
  · exact .inl rfl
  · exact .inl (by simp [answer, shutdown, gpioConfigs_eq])
  · exact .inl rfl
  · exact .inr (.inl rfl)
  · exact .inl rfl
  · exact .inl rfl
  · exact .inr (.inr (by simp [answer, scanDigit_eq]))

theorem exec_keeps_activeDigit_lt {i : Instr} {s t : State} (hs : s.activeDigit.toNat < s.config.displaysCount)
    (h : exec i s = .next t) : t.activeDigit.toNat < t.config.displaysCount := by
  have hv := valid_of_exec_next h
  obtain ⟨hconfig, -, -⟩ := exec_keeps_inputs h
  rw [hconfig]
  rcases activeDigit_exec_cases h with ha | ha | ha <;> rw [ha]
  · exact hs
  · exact valid_count_pos hv
  · rw [nextDigit_toNat hv]
    exact Nat.mod_lt _ (valid_count_pos hv)

theorem exec_keeps_runnable {i : Instr} {s t : State} (hs : s.Runnable) (h : exec i s = .next t) : t.Runnable := by
  obtain ⟨hconfig, -, -⟩ := exec_keeps_inputs h
  exact ⟨hconfig ▸ hs.config_valid, exec_keeps_activeDigit_lt hs.active_lt h, exec_keeps_glyphsLegal hs.glyphs_legal h⟩

/-! ## Completion -/

/-- A buffer command and every command of the scheduler and the timer runs in a valid configuration; a refresh also needs
the digit and the row of the table it is to show. -/
theorem exec_completes {s : State} (hs : s.Runnable) (i : Instr) : ∃ t, exec i s = .next t := by
  have hv := hs.config_valid
  cases hb : isBufferCommand i with
  | true =>
    obtain ⟨m, c, r, hexec⟩ := exec_bufferCommand hb s.memory s.cursor
    exact ⟨_, hexec s hv rfl rfl⟩
  | false =>
    cases i with
    | begin => exact ⟨_, exec_begin hv⟩
    | display => exact ⟨_, exec_display hv⟩
    | nodisplay => exact ⟨_, exec_nodisplay hv⟩
    | setblinkinterval ms => exact ⟨_, exec_setblinkinterval hv ms⟩
    | refresh =>
      cases he : s.enabled with
      | false => exact ⟨_, exec_refresh_disabled hv he⟩
      | true =>
        obtain ⟨g, -, hrun⟩ := exec_refresh_runs hv he hs.active_lt (hs.glyphs_legal s.activeDigit)
        exact ⟨_, hrun⟩
    | clear | home | setcursor | write | setdp | blinkdigit | noblinkdigit | noblink => cases hb

/-- The command phase runs, and leaves what the tick phase needs. -/
theorem commandPhase_completes {s : State} (hs : s.Runnable) : ∃ t, commandPhase s = .next t ∧ t.Runnable := by
  by_cases hcmd : s.ports.cmdValid = true
  · cases hw : decodeWord s.ports.cmd with
    | ok i =>
      obtain ⟨t, ht⟩ := exec_completes hs i
      exact ⟨t, (commandPhase_of_decode hcmd hw).trans ht, exec_keeps_runnable hs ht⟩
    | error e =>
      rw [commandPhase, if_pos hcmd, performCommand_of_error hw]
      exact ⟨_, rfl, answer_keeps_runnable hs false⟩
  · rw [commandPhase, if_neg hcmd]
    exact ⟨s, rfl, hs⟩

theorem tickPhase_completes {s : State} (hs : s.Runnable) : ∃ t, tickPhase s = .next t := by
  by_cases htick : s.ports.refreshTick = true
  · obtain ⟨t, ht⟩ := exec_completes hs .refresh
    rw [tickPhase, if_pos htick, ht]
    exact ⟨_, rfl⟩
  · rw [tickPhase, if_neg htick]
    exact ⟨s, rfl⟩

theorem step_completes {s : State} (hs : s.Runnable) : ∃ t, step s = .next t := by
  obtain ⟨u, hu, hrunnable⟩ := commandPhase_completes (sample_keeps_runnable hs)
  obtain ⟨t, ht⟩ := tickPhase_completes hrunnable
  rw [step_valid hs.config_valid]
  exact ⟨t, andThen_eq_next.2 ⟨u, hu, ht⟩⟩

end Sys2Proof.Machine
end

section
/-! The GPIO calls of a step (00_scope.md R10, 60_exceptions.md R204): every instruction calls wired pins only. -/

namespace Sys2Proof.Machine

/-- The pins a call may name: those of the configuration that are not the sentinel. -/
theorem mem_wiredPins {c : Config} {p : PinId} :
    p ∈ c.wiredPins ↔ p ≠ unusedPin ∧ p ∈ c.segmentPins ++ c.commonDriverPins := by
  rw [Config.wiredPins, List.mem_filter, bne_iff_ne, and_comm]

section Calls
variable {c : Config} (hv : c.valid = true)
include hv

theorem configCalls_pin_wired {call : GpioCall} (h : call ∈ configCalls (configuredPins c)) :
    call.pin ∈ c.wiredPins := by
  rw [configCalls, configuredPins_eq hv] at h
  obtain ⟨p, hp, rfl⟩ := List.mem_map.1 h
  exact hp

/-- Writes to lines of the display call wired pins only: a write to an unused line is no call (R10). -/
theorem writeCalls_pin_wired {ws : List (PinId × Level)}
    (hws : ∀ w ∈ ws, (∃ i < c.displaysCount, w.1 = commonPin c i) ∨ ∃ k < 8, w.1 = segmentPin c k)
    {call : GpioCall} (h : call ∈ writeCalls ws) : call.pin ∈ c.wiredPins := by
  obtain ⟨w, hw, rfl⟩ := List.mem_map.1 h
  obtain ⟨hmem, hne⟩ := List.mem_filter.1 hw
  rw [bne_iff_ne] at hne
  show w.1 ∈ c.wiredPins
  rcases hws w hmem with ⟨i, hi, hpin⟩ | ⟨k, hk, hpin⟩ <;> rw [hpin] at hne ⊢
  · exact commonPin_mem_wiredPins hv hi hne
  · exact segmentPin_mem_wiredPins hv hk hne

theorem shutdownCalls_pin_wired {call : GpioCall} (h : call ∈ writeCalls (shutdownWrites c)) :
    call.pin ∈ c.wiredPins := by
  refine writeCalls_pin_wired hv (fun w hw => ?_) h
  rcases mem_shutdownWrites.1 hw with ⟨i, hi, rfl⟩ | ⟨k, hk, rfl⟩
  · exact .inl ⟨i, hi, rfl⟩
  · exact .inr ⟨k, hk, rfl⟩

theorem refreshCalls_pin_wired {a : Nat} (ha : a < c.displaysCount) {mask : Byte} {dp : Bool} {call : GpioCall}
    (h : call ∈ writeCalls (refreshWrites c a mask dp)) : call.pin ∈ c.wiredPins := by
  refine writeCalls_pin_wired hv (fun w hw => ?_) h
  rcases mem_refreshWrites.1 hw with rfl | ⟨k, hk, rfl⟩ | rfl
  · exact .inl ⟨_, previousDigit_lt ha, rfl⟩
  · exact .inr ⟨k, hk, rfl⟩
  · exact .inl ⟨a, ha, rfl⟩

end Calls

/-- What an instruction adds to the trace: calls to wired pins (R204). -/
theorem exec_trace {i : Instr} {s t : State} (h : exec i s = .next t) :
    ∃ calls, t.trace = s.trace ++ calls ∧ ∀ call ∈ calls, call.pin ∈ s.config.wiredPins := by
  have hv := valid_of_exec_next h
  have hnone {u : State} (hu : u.trace = s.trace) :
      ∃ calls, u.trace = s.trace ++ calls ∧ ∀ call ∈ calls, call.pin ∈ s.config.wiredPins :=
    ⟨[], by rw [hu, List.append_nil], List.forall_mem_nil _⟩
  rcases exec_cases h with ⟨m, c, r, -, rfl⟩ | ⟨-, rfl⟩ | ⟨-, rfl⟩ | ⟨-, rfl⟩ | ⟨ms, -, rfl⟩ | ⟨-, -, rfl⟩ |
    ⟨-, -, ha, g, -, rfl⟩
  · exact hnone rfl
  · refine ⟨configCalls (configuredPins s.config) ++ writeCalls (shutdownWrites s.config), ?_, fun call hcall => ?_⟩
    · simp [answer, shutdown, gpioConfigs_eq]
    · exact (List.mem_append.1 hcall).elim (configCalls_pin_wired hv) (shutdownCalls_pin_wired hv)
  · exact hnone rfl
  · exact ⟨_, gpioWrites_trace .., fun _ => shutdownCalls_pin_wired hv⟩
  · exact hnone rfl
  · exact hnone rfl
  · refine ⟨writeCalls (refreshWrites s.config s.activeDigit.toNat (s.config.segmentMaskOf g)
      (Memory.dp s.memory s.activeDigit)), ?_, fun _ => refreshCalls_pin_wired hv ha⟩
    simp [answer, scanDigit_eq]

/-- Every call of the trace names a wired pin. -/
def State.CallsWired (s : State) : Prop := ∀ call ∈ s.trace, call.pin ∈ s.config.wiredPins

theorem exec_keeps_callsWired {i : Instr} {s t : State} (hs : s.CallsWired) (h : exec i s = .next t) :
    t.CallsWired := by
  obtain ⟨hconfig, -, -⟩ := exec_keeps_inputs h
  obtain ⟨calls, htrace, hcalls⟩ := exec_trace h
  rw [State.CallsWired, hconfig, htrace]
  exact fun call hcall => (List.mem_append.1 hcall).elim (hs call) (hcalls call)

/-- A step starts from the empty trace, whatever the step before it left (R10, R105). -/
theorem step_withTrace (s : State) (calls : List GpioCall) : step (s.withTrace calls) = step s := rfl

theorem step_callsWired {s t : State} (h : step s = .next t) : t.CallsWired :=
  step_keeps (P := State.CallsWired) (s := s.withTrace [])
    (fun _ _ => List.forall_mem_nil _) (fun _ _ hu => hu) (fun _ _ _ => exec_keeps_callsWired)
    (List.forall_mem_nil _) ((step_withTrace s []).trans h)

end Sys2Proof.Machine
end

section
/-! The statements of the family of the exceptions. -/

namespace Sys2Proof.Machine

/-- Settles O35: every call of the step names a wired pin of the configuration, which the step keeps. -/
theorem sentinelNeverPassed : Obligations.SentinelNeverPassed := by
  intro s t h call hcall
  rw [← mem_wiredPins, ← step_config h]
  exact step_callsWired h call hcall

/-- Settles O44: the invariant has what completion needs; the block has no fault to raise. -/
theorem everyEventCompletes : Obligations.EveryEventCompletes :=
  ⟨fun _ hinv => ⟨exec_completes hinv.runnable, step_completes hinv.runnable⟩, fun _ _ r => nomatch r⟩

/-- Settles O22: each of the three setters only answers. -/
theorem outOfRangeDigitIgnored : Obligations.OutOfRangeDigitIgnored := by
  intro s digit on hv hout
  simp only [List.forall_mem_cons]
  exact ⟨exec_setdp_out hv hout on, exec_blinkdigit_out hv hout, exec_noblinkdigit_out hv hout, List.forall_mem_nil _⟩

end Sys2Proof.Machine
end

section
/-! The encoder and the decoder agree (30_encoding.md R91 to R96), on a word and over a byte-wide channel (20_memory.md
R65), and the glyph encoder as a whole (40_glyph_encoder.md R124). -/

namespace Sys2Proof

/-! ## The command word -/

/-- The fields of the operand half the encoder writes are the operands themselves. -/
theorem Instr.withFields_operand (i : Instr) : i.withFields i.operand = i := by
  cases i with
  | setcursor | write | blinkdigit | noblinkdigit => simp [withFields, operand]
  | setdp digit on => rw [withFields, operand, lowByteOf_setdp, onBitOf_setdp]
  | begin | clear | home | noblink | display | nodisplay | setblinkinterval | refresh => rfl

theorem decodeWord_encode (i : Instr) : decodeWord (encode i) = .ok i := by
  rw [encode, decodeWord_append, decodeFields_opcode, Instr.withFields_operand]

/-- Settles O3: the encoder writes the opcode of the row, and each operand where the decoder reads its field. -/
theorem decodeOfEncode : Obligations.DecodeOfEncode := fun i _ => decodeWord_encode i

/-- A word known to be the encoding of an instruction is read back as it. -/
theorem encode_and_decodeWord_of_eq {i : Instr} {w : CommandWord} (h : encode i = w) :
    encode i = w ∧ decodeWord w = .ok i := ⟨h, h ▸ decodeWord_encode i⟩

/-- Settles O1: each word is written out by the encoder, and reading back needs no evaluation. -/
theorem workedEncodings : Obligations.WorkedEncodings :=
  ⟨encode_and_decodeWord_of_eq rfl, encode_and_decodeWord_of_eq rfl, encode_and_decodeWord_of_eq rfl,
    encode_and_decodeWord_of_eq rfl, encode_and_decodeWord_of_eq rfl, encode_and_decodeWord_of_eq rfl,
    encode_and_decodeWord_of_eq rfl, encode_and_decodeWord_of_eq rfl, encode_and_decodeWord_of_eq rfl⟩

/-! ## The byte-wide channel -/

/-- The three bytes are the three bytes of the word (R65). -/
theorem encodeBytes_eq (i : Instr) :
    encodeBytes i = [(encode i).extractLsb' 16 8, (encode i).extractLsb' 8 8, (encode i).extractLsb' 0 8] := by
  have hop : (encode i).extractLsb' 16 8 = i.opcode := opcodeOf_append ..
  have hoperand : operandOf (encode i) = i.operand := operandOf_append ..
  have hhalf {k : Nat} (hk : k + 8 ≤ 16) : (encode i).extractLsb' k 8 = i.operand.extractLsb' k 8 := by
    rw [← hoperand, operandOf, BitVec.extractLsb'_extractLsb'_of_le hk]
  rw [encodeBytes, hop, hhalf (by decide), hhalf (by decide)]

/-- The three bytes put together are the word again. -/
theorem wordOfBytes_encodeBytes (i : Instr) :
    wordOfBytes i.opcode (i.operand.extractLsb' 8 8) (i.operand.extractLsb' 0 8) = encode i := by
  have hoperand : i.operand.extractLsb' 8 8 ++ i.operand.extractLsb' 0 8 = i.operand := by
    rw [BitVec.extractLsb'_append_extractLsb'_eq_extractLsb' (by rfl), BitVec.extractLsb'_eq_self]
  rw [wordOfBytes, BitVec.append_assoc, hoperand]
  rfl

theorem decodeBytes_encodeBytes_append (i : Instr) (rest : List Byte) :
    decodeBytes (encodeBytes i ++ rest) = .ok (i, rest) := by
  simp only [encodeBytes, List.cons_append, List.nil_append, decodeBytes, wordOfBytes_encodeBytes, decodeWord_encode]

/-- A channel that ends inside a command word (R65). -/
theorem decodeBytes_of_length_lt : ∀ {bs : List Byte}, bs.length < 3 → decodeBytes bs = .error .truncated
  | [], _ | [_], _ | [_, _], _ => rfl
  | _ :: _ :: _ :: _, h => absurd h (by simp)

/-- Settles O6: the bytes are those of the word, and put together again they are decoded as the word is. -/
theorem serialisedWordReadBack : Obligations.SerialisedWordReadBack :=
  ⟨fun i rest => ⟨encodeBytes_eq i, decodeBytes_encodeBytes_append i rest⟩, fun _ => decodeBytes_of_length_lt⟩

/-! ## The glyph encoder -/

/-- A lower-case letter is 0x20 above its upper-case form, and has the same code (R124). -/
theorem encodeChar_lower_eq_upper {ch : Byte} (h : 0x41 ≤ ch.toNat ∧ ch.toNat ≤ 0x46) :
    encodeChar ch = encodeChar (ch + 0x20) := by
  have hlower : (ch + 0x20).toNat = ch.toNat + 0x20 :=
    BitVec.toNat_add_of_lt (show ch.toNat + 0x20 < 256 by omega)
  rw [← BitVec.toNat_inj, encodeChar_of_upper h, encodeChar_of_lower (by omega), hlower]
  omega

/-- Only the space is blank: the code of every other range is another one (R124). -/
theorem encodeChar_blank_iff (ch : Byte) : (encodeChar ch).toNat = 16 ↔ ch.toNat = 0x20 := by
  obtain ⟨hdigit, hupper, hlower, hspace, hother⟩ := encodeContract.1 ch
  refine ⟨fun hblank => ?_, hspace⟩
  by_contra hne
  by_cases h₁ : 0x30 ≤ ch.toNat ∧ ch.toNat ≤ 0x39
  · have := hdigit h₁; omega
  by_cases h₂ : 0x41 ≤ ch.toNat ∧ ch.toNat ≤ 0x46
  · have := hupper h₂; omega
  by_cases h₃ : 0x61 ≤ ch.toNat ∧ ch.toNat ≤ 0x66
  · have := hlower h₃; omega
  have := hother ⟨h₁, h₂, h₃, hne⟩
  omega

/-- Settles O9: the codes by range, and the two rows of the default table that the named characters select. -/
theorem encoderProperties : Obligations.EncoderProperties := by
  refine ⟨fun _ => encodeChar_lower_eq_upper,
    fun ch => ⟨Machine.encodeChar_le ch, _, Machine.glyphRow_some (Nat.lt_succ_of_le (Machine.encodeChar_le ch))⟩,
    encodeChar_blank_iff, fun c htable => ?_⟩
  have hseven : glyphRow (encodeChar 0x37) = some 7 := by decide
  have hdash : glyphRow (encodeChar 0x78) = some 17 := by decide
  rw [hseven, hdash]
  simp only [Option.map_some, Config.segmentMaskOf, htable]
  exact ⟨rfl, rfl⟩

end Sys2Proof
end

section
/-! The assembler on the text the renderer writes (30_encoding.md R106): a hexadecimal digit is read back, then a
hexadecimal operand, then each line. -/

namespace Sys2Proof.Machine

/-! ## Hexadecimal operands -/

theorem hexDigit_hexChar (n : Nat) : hexDigit (hexChar n) = some (n % 16) := by
  have hall : ∀ m < 16, hexDigit (hexChar m) = some m := by decide
  have hmod : hexChar n = hexChar (n % 16) := by rw [hexChar, hexChar, Nat.mod_mod]
  rw [hmod, hall _ (Nat.mod_lt _ (by decide))]

theorem readDigits_hexChar (acc : Option Nat) (n : Nat) (cs : List Char) :
    readDigits 16 hexDigit acc (hexChar n :: cs) = readDigits 16 hexDigit (some (acc.getD 0 * 16 + n % 16)) cs := by
  rw [readDigits, hexDigit_hexChar]

/-- The digits end at the end of the text or at a character that is none. -/
theorem readDigits_end {rest : List Char} (h : ∀ c ∈ rest.head?, hexDigit c = none) (n : Nat) :
    readDigits 16 hexDigit (some n) rest = some (n, rest) := by
  cases rest with
  | nil => rfl
  | cons c cs => rw [readDigits, h c rfl]; rfl

section Operands
variable {bound : Nat} {rest : List Char} (hrest : ∀ c ∈ rest.head?, hexDigit c = none)
include hrest

theorem operandBelow_byteText {b : Byte} (hb : b.toNat < bound) :
    operandBelow bound (byteText b ++ rest) = .ok (b.toNat, rest) := by
  have hlt := b.isLt
  have hvalue : (0 * 16 + b.toNat / 16 % 16) * 16 + b.toNat % 16 = b.toNat := by omega
  have hread : readNumber (skipBlanks (byteText b ++ rest)) = some (b.toNat, rest) := by
    show readDigits 16 hexDigit none (hexChar (b.toNat / 16) :: hexChar b.toNat :: rest) = _
    simp only [readDigits_hexChar, Option.getD_none, Option.getD_some, hvalue, readDigits_end hrest]
  rw [operandBelow, hread]
  exact if_pos hb

theorem operandBelow_halfText {h : BitVec 16} (hh : h.toNat < bound) :
    operandBelow bound (halfText h ++ rest) = .ok (h.toNat, rest) := by
  have hlt := h.isLt
  have hvalue : (((0 * 16 + h.toNat / 4096 % 16) * 16 + h.toNat / 256 % 16) * 16 + h.toNat / 16 % 16) * 16 +
      h.toNat % 16 = h.toNat := by omega
  have hread : readNumber (skipBlanks (halfText h ++ rest)) = some (h.toNat, rest) := by
    show readDigits 16 hexDigit none (hexChar (h.toNat / 4096) :: hexChar (h.toNat / 256) ::
      hexChar (h.toNat / 16) :: hexChar h.toNat :: rest) = _
    simp only [readDigits_hexChar, Option.getD_none, Option.getD_some, hvalue, readDigits_end hrest]
  rw [operandBelow, hread]
  exact if_pos hh

end Operands

/-! ## Lines with operands -/

theorem ofNat_toNat_eq {w : Nat} (x : BitVec w) : BitVec.ofNat w x.toNat = x := by
  rw [BitVec.ofNat_toNat, BitVec.setWidth_eq]

/-- A command with one operand, from what reading the operand gives. -/
theorem oneOperand_of_operandBelow {bound w : Nat} {build : BitVec w → Instr} {text : List Char} {x : BitVec w}
    (h : operandBelow bound (skipBlanks text) = .ok (x.toNat, [])) :
    oneOperand bound (fun n => build (BitVec.ofNat w n)) (' ' :: text) = .ok (.command (build x)) := by
  show (operandBelow bound (skipBlanks text) >>= fun r => finish (.command (build (BitVec.ofNat w r.1))) r.2) = _
  rw [h]
  exact congrArg (fun y => Except.ok (AsmItem.command (build y))) (ofNat_toNat_eq x)

theorem oneOperand_byteText (build : Byte → Instr) (b : Byte) :
    oneOperand 256 (fun n => build (BitVec.ofNat 8 n)) (' ' :: byteText b) = .ok (.command (build b)) :=
  oneOperand_of_operandBelow (operandBelow_byteText (rest := []) (by simp) b.isLt)

theorem oneOperand_halfText (build : BitVec 16 → Instr) (h : BitVec 16) :
    oneOperand 65536 (fun n => build (BitVec.ofNat 16 n)) (' ' :: halfText h) = .ok (.command (build h)) :=
  oneOperand_of_operandBelow (operandBelow_halfText (rest := []) (by simp) h.isLt)

/-- A hexadecimal operand does not begin with a quote, so `WRITE` reads it as a number. -/
theorem writeOperand_byteText (ch : Byte) : writeOperand (' ' :: byteText ch) = .ok (.command (.write ch)) := by
  have hchar : charOperand (byteText ch) = .ok (ch.toNat, []) :=
    operandBelow_byteText (rest := []) (by simp) ch.isLt
  show (charOperand (byteText ch) >>= fun r => finish (.command (.write (BitVec.ofNat 8 r.1))) r.2) = _
  rw [hchar]
  exact congrArg (fun x => Except.ok (AsmItem.command (.write x))) (ofNat_toNat_eq ch)

/-- The comma ends the first operand of `SETDP`; `d` is the one digit of the second. -/
theorem setdpOperands_byteText (digit : Byte) (d : Char) :
    setdpOperands (' ' :: byteText digit ++ [',', ' ', d]) =
      (do let on ← operandBelow 2 [' ', d]
          finish (.command (.setdp digit (on.1 == 1))) on.2) := by
  have hcomma : ∀ c ∈ [',', ' ', d].head?, hexDigit c = none := by
    rintro _ ⟨⟩
    rfl
  show (operandBelow 256 (byteText digit ++ [',', ' ', d]) >>= fun r => skipComma r.2 >>= fun rest =>
    operandBelow 2 rest >>= fun on => finish (.command (.setdp (BitVec.ofNat 8 r.1) (on.1 == 1))) on.2) = _
  rw [operandBelow_byteText hcomma digit.isLt]
  exact congrArg (fun x => operandBelow 2 [' ', d] >>= fun on => finish (.command (.setdp x (on.1 == 1))) on.2)
    (ofNat_toNat_eq digit)

/-! ## Every line -/

/-- Settles O7: the mnemonic selects the reader of the operands, which reads what was written. -/
theorem assemblerReadsWhatItWrites : Obligations.AssemblerReadsWhatItWrites := by
  intro i
  cases i with
  | setcursor pos => exact oneOperand_byteText .setcursor pos
  | write ch => exact writeOperand_byteText ch
  | setdp digit on =>
    cases on with
    | true => exact setdpOperands_byteText digit '1'
    | false => exact setdpOperands_byteText digit '0'
  | blinkdigit digit => exact oneOperand_byteText .blinkdigit digit
  | noblinkdigit digit => exact oneOperand_byteText .noblinkdigit digit
  | setblinkinterval ms => exact oneOperand_halfText .setblinkinterval ms
  | begin | clear | home | noblink | display | nodisplay | refresh => rfl

end Sys2Proof.Machine
end

section
/-! The table of writers (10_state.md R34): for each column, what an instruction that answers a next state may have
made of it. -/

namespace Sys2Proof.Machine

/-! ## The latches after a list of writes -/

/-- The latches a list of writes leaves depend on the latches it finds, and on nothing else of the state. -/
theorem lines_gpioWrites_congr {s t : State} (h : t.lines = s.lines) (ws : List (PinId × Level)) :
    (gpioWrites ws t).lines = (gpioWrites ws s).lines := by
  induction ws generalizing s t with
  | nil => exact h
  | cons w ws ih =>
    refine ih ?_
    unfold gpioWrite
    split
    · exact h
    · exact congrArg (Assoc.insert w.1.toNat w.2) h

theorem State.line_congr {s t : State} (h : t.lines = s.lines) (p : PinId) : t.line p = s.line p := by
  rw [State.line, h, State.line]

/-! ## The buffer -/

/-- Every way an instruction leaves one glyph code. -/
theorem glyph_exec_cases {i : Instr} {s t : State} (h : exec i s = .next t) (j : SlotIndex) :
    Memory.glyph t.memory j = Memory.glyph s.memory j ∨ i = .begin ∨ i = .clear ∨ ∃ ch, i = .write ch := by
  rcases memory_exec_cases h with hm | ⟨hi | hi, -⟩ | ⟨ch, k, hi, -, -⟩ | ⟨d, on, k, -, -, hm⟩ | ⟨d, b, k, -, -, hm⟩ |
    ⟨-, hm⟩
  · exact .inl (by rw [hm])
  · exact .inr (.inr (.inl hi))
  · exact .inr (.inl hi)
  · exact .inr (.inr (.inr ⟨ch, hi⟩))
  · exact .inl (by rw [hm, Memory.glyph_setDp])
  · exact .inl (by rw [hm, Memory.glyph_setBlink])
  · exact .inl (by rw [hm, Memory.glyph_clearBlinks])

/-- Every way an instruction leaves one blink flag. -/
theorem blink_exec_cases {i : Instr} {s t : State} (h : exec i s = .next t) (j : SlotIndex) :
    Memory.blink t.memory j = Memory.blink s.memory j ∨ i = .begin ∨ i = .clear ∨ (∃ d, i = .blinkdigit d) ∨
      (∃ d, i = .noblinkdigit d) ∨ i = .noblink := by
  rcases memory_exec_cases h with hm | ⟨hi | hi, -⟩ | ⟨ch, k, -, -, hm⟩ | ⟨d, on, k, -, -, hm⟩ |
    ⟨d, b, k, ⟨hi, -⟩ | ⟨hi, -⟩, -, -⟩ | ⟨hi, -⟩
  · exact .inl (by rw [hm])
  · exact .inr (.inr (.inl hi))
  · exact .inr (.inl hi)
  · exact .inl (by rw [hm, Memory.blink_setGlyph])
  · exact .inl (by rw [hm, Memory.blink_setDp])
  · exact .inr (.inr (.inr (.inl ⟨d, hi⟩)))
  · exact .inr (.inr (.inr (.inr (.inl ⟨d, hi⟩))))
  · exact .inr (.inr (.inr (.inr (.inr hi))))

/-! ## The cursor -/

theorem cursor_of_perform {s t u : State} (h : perform s u = .next t) : t.cursor = u.cursor :=
  congrArg State.cursor (perform_eq_next.1 h).2

/-- Every way an instruction leaves the cursor. -/
theorem cursor_exec_cases {i : Instr} {s t : State} (h : exec i s = .next t) :
    t.cursor = s.cursor ∨
    ((i = .begin ∨ i = .clear ∨ i = .home) ∧ t.cursor = 0) ∨
    (∃ pos, i = .setcursor pos ∧ t.cursor = clampCursor pos) ∨
    (∃ ch, i = .write ch ∧ s.cursor.toNat < 16 ∧ t.cursor = s.cursor + 1) := by
  cases i with
  | begin => exact .inr (.inl ⟨.inl rfl, (cursor_of_perform h :)⟩)
  | clear => exact .inr (.inl ⟨.inr (.inl rfl), (cursor_of_perform h :)⟩)
  | home => exact .inr (.inl ⟨.inr (.inr rfl), (cursor_of_perform h :)⟩)
  | setcursor pos => exact .inr (.inr (.inl ⟨pos, rfl, (cursor_of_perform h :)⟩))
  | write ch =>
    have hv := valid_of_exec_next h
    by_cases hc : s.cursor.toNat < 16
    · rw [exec_write hv hc] at h
      exact .inr (.inr (.inr ⟨ch, rfl, hc, congrArg State.cursor (Host.Outcome.next.inj h).symm⟩))
    · rw [exec_write_full hv (by omega)] at h
      exact .inl (congrArg State.cursor (Host.Outcome.next.inj h).symm :)
  | setdp d on => rw [exec, execSetdp] at h; split at h <;> exact .inl (cursor_of_perform h :)
  | blinkdigit d => rw [exec, execBlinkdigit] at h; split at h <;> exact .inl (cursor_of_perform h :)
  | noblinkdigit d => rw [exec, execNoblinkdigit] at h; split at h <;> exact .inl (cursor_of_perform h :)
  | nodisplay => exact .inl ((cursor_of_perform h).trans (gpioWrites_cursor ..))
  | noblink | display | setblinkinterval => exact .inl (cursor_of_perform h :)
  | refresh =>
    rcases exec_cases h with ⟨_, _, _, hb, -⟩ | ⟨hi, -⟩ | ⟨hi, -⟩ | ⟨hi, -⟩ | ⟨_, hi, -⟩ | ⟨-, -, rfl⟩ |
      ⟨-, -, -, g, -, rfl⟩
    · cases hb
    · cases hi
    · cases hi
    · cases hi
    · cases hi
    · exact .inl rfl
    · exact .inl (by simp [answer, scanDigit_eq])

/-! ## The scheduler -/

/-- The active digit an instruction leaves: `NODISPLAY` makes it 0, an enabled refresh moves it on (R154, R155). -/
def activeDigitAfter (c : Config) (a : BitVec 4) (enabled : Bool) : Instr → BitVec 4
  | .nodisplay => 0
  | .refresh => if enabled then BitVec.ofNat 4 (nextDigit c.displaysCount a.toNat) else a
  | _ => a

/-- The enabled flag an instruction leaves (R152 to R154). -/
def enabledAfter (enabled : Bool) : Instr → Bool
  | .begin => true
  | .display => true
  | .nodisplay => false
  | _ => enabled

theorem activeDigitAfter_of_isBufferCommand {i : Instr} (hi : isBufferCommand i = true) (c : Config) (a : BitVec 4)
    (enabled : Bool) : activeDigitAfter c a enabled i = a := by
  cases i with
  | begin | display | nodisplay | setblinkinterval | refresh => cases hi
  | _ => rfl

theorem enabledAfter_of_isBufferCommand {i : Instr} (hi : isBufferCommand i = true) (enabled : Bool) :
    enabledAfter enabled i = enabled := by
  cases i with
  | begin | display | nodisplay | setblinkinterval | refresh => cases hi
  | _ => rfl

/-- What an instruction makes of the active digit and of the enabled flag is fixed by these two and the digit count. -/
theorem scheduler_exec {i : Instr} {s t : State} (h : exec i s = .next t) :
    t.activeDigit = activeDigitAfter s.config s.activeDigit s.enabled i ∧ t.enabled = enabledAfter s.enabled i := by
  rcases exec_cases h with ⟨m, c, r, hi, rfl⟩ | ⟨rfl, rfl⟩ | ⟨rfl, rfl⟩ | ⟨rfl, rfl⟩ | ⟨ms, rfl, rfl⟩ |
    ⟨rfl, he, rfl⟩ | ⟨rfl, he, -, g, -, rfl⟩
  · rw [activeDigitAfter_of_isBufferCommand hi, enabledAfter_of_isBufferCommand hi]
    exact ⟨rfl, rfl⟩
  · exact ⟨by simp [answer, shutdown, gpioConfigs_eq, activeDigitAfter], rfl⟩
  · exact ⟨rfl, rfl⟩
  · exact ⟨rfl, rfl⟩
  · exact ⟨rfl, rfl⟩
  · exact ⟨by simp [answer, activeDigitAfter, he], rfl⟩
  · simp [answer, scanDigit_eq, activeDigitAfter, enabledAfter, he]

theorem activeDigitAfter_ne {i : Instr} {c : Config} {a : BitVec 4} {enabled : Bool}
    (h : activeDigitAfter c a enabled i ≠ a) : i = .nodisplay ∨ (i = .refresh ∧ enabled = true) := by
  cases i with
  | nodisplay => exact .inl rfl
  | refresh => exact .inr ⟨rfl, by_contra fun he => h (if_neg he)⟩
  | _ => exact absurd rfl h

theorem enabledAfter_ne {i : Instr} {enabled : Bool} (h : enabledAfter enabled i ≠ enabled) :
    i = .begin ∨ i = .display ∨ i = .nodisplay := by
  cases i with
  | begin => exact .inl rfl
  | display => exact .inr (.inl rfl)
  | nodisplay => exact .inr (.inr rfl)
  | _ => exact absurd rfl h

/-! ## The blink timer -/

/-- The phase and the timer stay, or an enabled refresh updates them (R180). -/
theorem timer_exec_cases {i : Instr} {s t : State} (h : exec i s = .next t) :
    (t.blinkOff = s.blinkOff ∧ t.blinkTimer = s.blinkTimer) ∨
    ((i = .refresh ∧ s.enabled = true) ∧ t.blinkOff = (blinkUpdate s).blinkOff ∧
      t.blinkTimer = (blinkUpdate s).blinkTimer) := by
  rcases exec_cases h with ⟨m, c, r, -, rfl⟩ | ⟨-, rfl⟩ | ⟨-, rfl⟩ | ⟨-, rfl⟩ | ⟨ms, -, rfl⟩ | ⟨-, -, rfl⟩ |
    ⟨hi, he, -, g, -, rfl⟩
  · exact .inl ⟨rfl, rfl⟩
  · exact .inl (by simp [answer, shutdown, gpioConfigs_eq])
  · exact .inl ⟨rfl, rfl⟩
  · exact .inl (by simp [answer, shutdown])
  · exact .inl ⟨rfl, rfl⟩
  · exact .inl ⟨rfl, rfl⟩
  · exact .inr ⟨⟨hi, he⟩, scanDigit_blinkOff .., scanDigit_blinkTimer ..⟩

/-- The interval stays, or the one command of the timer stores it (R183). -/
theorem blinkInterval_exec_cases {i : Instr} {s t : State} (h : exec i s = .next t) :
    t.blinkInterval = s.blinkInterval ∨
      ∃ ms, i = .setblinkinterval ms ∧ t.blinkInterval = s.config.intervalOf ms := by
  rcases exec_cases h with ⟨m, c, r, -, rfl⟩ | ⟨-, rfl⟩ | ⟨-, rfl⟩ | ⟨-, rfl⟩ | ⟨ms, hi, rfl⟩ | ⟨-, -, rfl⟩ |
    ⟨-, -, -, g, -, rfl⟩
  · exact .inl rfl
  · exact .inl (by simp [answer, shutdown, gpioConfigs_eq])
  · exact .inl rfl
  · exact .inl (by simp [answer, shutdown])
  · exact .inr ⟨ms, hi, rfl⟩
  · exact .inl rfl
  · exact .inl (by simp [answer, scanDigit_eq])

/-! ## The history and the lines -/

/-- The history stays, or `BEGIN` or `NODISPLAY` makes it what R31 and R233 name. -/
theorem boot_exec_cases {i : Instr} {s t : State} (h : exec i s = .next t) :
    t.boot = s.boot ∨ (i = .begin ∧ t.boot = .begun) ∨ (i = .nodisplay ∧ t.boot = s.boot.afterShutdown) := by
  rcases exec_cases h with ⟨m, c, r, -, rfl⟩ | ⟨hi, rfl⟩ | ⟨-, rfl⟩ | ⟨hi, rfl⟩ | ⟨ms, -, rfl⟩ | ⟨-, -, rfl⟩ |
    ⟨-, -, -, g, -, rfl⟩
  · exact .inl rfl
  · exact .inr (.inl ⟨hi, rfl⟩)
  · exact .inl rfl
  · exact .inr (.inr ⟨hi, rfl⟩)
  · exact .inl rfl
  · exact .inl rfl
  · exact .inl (by simp [answer, scanDigit_eq])

/-- The latches and the trace stay, or a shutdown or a refresh of the active digit writes (R160). -/
theorem lines_exec_cases {i : Instr} {s t : State} (h : exec i s = .next t) :
    (t.lines = s.lines ∧ t.trace = s.trace) ∨
    ((i = .begin ∨ i = .nodisplay) ∧ t.lines = (shutdown s).lines) ∨
    ((i = .refresh ∧ s.enabled = true) ∧ s.activeDigit.toNat < s.config.displaysCount ∧ ∃ mask dp,
      t.lines = (gpioWrites (refreshWrites s.config s.activeDigit.toNat mask dp) s).lines) := by
  rcases exec_cases h with ⟨m, c, r, -, rfl⟩ | ⟨hi, rfl⟩ | ⟨-, rfl⟩ | ⟨hi, rfl⟩ | ⟨ms, -, rfl⟩ | ⟨-, -, rfl⟩ |
    ⟨hi, he, ha, g, -, rfl⟩
  · exact .inl ⟨rfl, rfl⟩
  · refine .inr (.inl ⟨.inl hi, ?_⟩)
    simp only [answer, State.withResp_lines, State.withBoot_lines, State.withEnabled_lines, State.withCursor_lines,
      State.withMemory_lines, gpioConfigs_eq]
    exact lines_gpioWrites_congr (State.withTrace_lines ..) (shutdownWrites s.config)
  · exact .inl ⟨rfl, rfl⟩
  · exact .inr (.inl ⟨.inr hi, rfl⟩)
  · exact .inl ⟨rfl, rfl⟩
  · exact .inl ⟨rfl, rfl⟩
  · refine .inr (.inr ⟨⟨hi, he⟩, ha, s.config.segmentMaskOf g, Memory.dp s.memory s.activeDigit, ?_⟩)
    rw [← lines_gpioWrites_congr (blinkUpdate_lines s), scanDigit_eq, blinkUpdate_config, blinkUpdate_memory,
      blinkUpdate_activeDigit]
    rfl

/-! ## The statements about what each instruction may change -/

/-- Settles O42: each column's lemma, read from a change to the instructions that make it. -/
theorem writersTable : Obligations.WritersTable := by
  intro i s t h
  obtain ⟨hactive, henabled⟩ := scheduler_exec h
  refine ⟨fun ⟨j, hj⟩ => (glyph_exec_cases h j).resolve_left hj, fun ⟨j, hj⟩ => ?points,
    fun ⟨j, hj⟩ => (blink_exec_cases h j).resolve_left hj, fun hne => ?cursor,
    fun hne => activeDigitAfter_ne (hactive ▸ hne), fun hne => enabledAfter_ne (henabled ▸ hne),
    fun hne => ?phase, fun hne => ?interval, fun hne => ?timer, fun hne => ?history, fun hne => ?lines,
    exec_keeps_inputs h⟩
  case points =>
    rcases (dp_exec_cases h j).resolve_left hj with ⟨d, on, hi, -, -⟩ | ⟨hi | hi, -⟩
    · exact .inr (.inr ⟨d, on, hi⟩)
    · exact .inr (.inl hi)
    · exact .inl hi
  case cursor =>
    rcases (cursor_exec_cases h).resolve_left hne with ⟨hi | hi | hi, -⟩ | ⟨pos, hi, -⟩ | ⟨ch, hi, -, -⟩
    · exact .inl hi
    · exact .inr (.inl hi)
    · exact .inr (.inr (.inl hi))
    · exact .inr (.inr (.inr (.inl ⟨pos, hi⟩)))
    · exact .inr (.inr (.inr (.inr ⟨ch, hi⟩)))
  case phase => exact ((timer_exec_cases h).resolve_left fun hkept => hne hkept.1).1
  case interval =>
    obtain ⟨ms, hi, -⟩ := (blinkInterval_exec_cases h).resolve_left hne
    exact ⟨ms, hi⟩
  case timer => exact ((timer_exec_cases h).resolve_left fun hkept => hne hkept.2).1
  case history => exact ((boot_exec_cases h).resolve_left hne).imp And.left And.left
  case lines =>
    have hkept : ¬ (t.lines = s.lines ∧ t.trace = s.trace) := not_and_or.2 hne
    rcases (lines_exec_cases h).resolve_left hkept with ⟨hi | hi, -⟩ | ⟨hi, -⟩
    · exact .inl hi
    · exact .inr (.inl hi)
    · exact .inr (.inr hi)

/-- Settles O40: what remains when the instruction is no enabled refresh. -/
theorem timerStandsStill : Obligations.TimerStandsStill := by
  intro i s t h hi
  refine (timer_exec_cases h).resolve_right fun ⟨⟨hrefresh, henabled⟩, _⟩ => ?_
  rcases hi with hi | hi
  · exact hi hrefresh
  · exact Bool.false_ne_true (hi.symm.trans henabled)

/-- Settles O54: both states leave the digit and the flag that `activeDigitAfter` and `enabledAfter` give, and these
read nothing in which the two states differ. -/
theorem sequencingIgnoresTheBuffer : Obligations.SequencingIgnoresTheBuffer := by
  intro i s s' t t' hconfig hactive henabled h h'
  obtain ⟨hdigit, hflag⟩ := scheduler_exec h
  obtain ⟨hdigit', hflag'⟩ := scheduler_exec h'
  rw [hdigit', hdigit, hflag', hflag, hconfig, hactive, henabled]
  exact ⟨rfl, rfl⟩

end Sys2Proof.Machine
end

section
/-! The invariant (10_state.md R31 (I-a) to (I-c)): it holds at construction, and every instruction keeps each
clause. -/

namespace Sys2Proof.Machine

/-! ## The clauses -/

theorem exec_keeps_memory_wf {i : Instr} {s t : State} (hs : Memory.wf s.memory = true) (h : exec i s = .next t) :
    Memory.wf t.memory = true := by
  rcases memory_exec_cases h with hm | ⟨-, hm⟩ | ⟨ch, k, -, -, hm⟩ | ⟨d, on, k, -, -, hm⟩ | ⟨d, b, k, -, -, hm⟩ |
    ⟨-, hm⟩ <;> rw [hm]
  · exact hs
  · exact Memory.wf_clearAll hs
  · exact Memory.wf_setGlyph k _ hs
  · exact Memory.wf_setDp k on hs
  · exact Memory.wf_setBlink k b hs
  · exact Memory.wf_clearBlinks hs

theorem exec_keeps_cursor_le {i : Instr} {s t : State} (hs : s.cursor.toNat ≤ 16) (h : exec i s = .next t) :
    t.cursor.toNat ≤ 16 := by
  rcases cursor_exec_cases h with hc | ⟨-, hc⟩ | ⟨pos, -, hc⟩ | ⟨ch, -, hlt, hc⟩ <;> rw [hc]
  · exact hs
  · decide
  · rw [clampCursor_toNat]
    exact min_le_right _ _
  · rw [cursor_succ_toNat hlt]
    exact hlt

/-- The pins of a shutdown are lines of the display (R151). -/
theorem shutdownWrites_pins {c : Config} {w : PinId × Level} (hw : w ∈ shutdownWrites c) :
    (∃ i < c.displaysCount, w.1 = commonPin c i) ∨ ∃ k < 8, w.1 = segmentPin c k := by
  rcases mem_shutdownWrites.1 hw with ⟨i, hi, rfl⟩ | ⟨k, hk, rfl⟩
  · exact .inl ⟨i, hi, rfl⟩
  · exact .inr ⟨k, hk, rfl⟩

/-- The pins of a refresh are lines of the display (R155). -/
theorem refreshWrites_pins {c : Config} {a : Nat} (ha : a < c.displaysCount) {mask : Byte} {dp : Bool}
    {w : PinId × Level} (hw : w ∈ refreshWrites c a mask dp) :
    (∃ i < c.displaysCount, w.1 = commonPin c i) ∨ ∃ k < 8, w.1 = segmentPin c k := by
  rcases mem_refreshWrites.1 hw with rfl | ⟨k, hk, rfl⟩ | rfl
  · exact .inl ⟨_, previousDigit_lt ha, rfl⟩
  · exact .inr ⟨k, hk, rfl⟩
  · exact .inl ⟨a, ha, rfl⟩

/-- Writes to lines of the display keep the latches in canonical form, at wired pins only (R36). -/
theorem linesLegal_of_gpioWrites {s t : State} (hv : s.config.valid = true) {ws : List (PinId × Level)}
    (hws : ∀ w ∈ ws, (∃ i < s.config.displaysCount, w.1 = commonPin s.config i) ∨ ∃ k < 8, w.1 = segmentPin s.config k)
    (hs : linesLegal s) (hconfig : t.config = s.config) (hlines : t.lines = (gpioWrites ws s).lines) :
    linesLegal t := by
  obtain ⟨hrising, hwired⟩ := hs
  rw [linesLegal, hconfig, hlines]
  refine ⟨rising_lines_gpioWrites hrising, fun e he => ?_⟩
  rcases mem_lines_gpioWrites he with he | ⟨w, hw, hne, hkey⟩
  · exact hwired e he
  · refine ⟨w.1, ?_, hkey⟩
    rcases hws w hw with ⟨i, hi, hpin⟩ | ⟨k, hk, hpin⟩ <;> rw [hpin] at hne ⊢
    · exact commonPin_mem_wiredPins hv hi hne
    · exact segmentPin_mem_wiredPins hv hk hne

theorem exec_keeps_linesLegal {i : Instr} {s t : State} (hs : linesLegal s) (h : exec i s = .next t) :
    linesLegal t := by
  have hv := valid_of_exec_next h
  obtain ⟨hconfig, -, -⟩ := exec_keeps_inputs h
  rcases lines_exec_cases h with ⟨hlines, -⟩ | ⟨-, hlines⟩ | ⟨-, ha, mask, dp, hlines⟩
  · rwa [linesLegal, hconfig, hlines]
  · exact linesLegal_of_gpioWrites hv (fun _ => shutdownWrites_pins) hs hconfig hlines
  · exact linesLegal_of_gpioWrites hv (fun _ => refreshWrites_pins ha) hs hconfig hlines

/-- The bound of a stored interval in either timebase (R183, R184). -/
theorem intervalOf_le (c : Config) (ms : BitVec 16) :
    (c.timebase = .wallClock → (c.intervalOf ms).toNat ≤ 65535) ∧
    (c.timebase = .tickCount → (c.intervalOf ms).toNat ≤ 65535000) := by
  have hms := ms.isLt
  refine ⟨fun h => ?_, fun h => ?_⟩
  · rw [intervalOf_wallClock_toNat h]
    omega
  · rw [intervalOf_tickCount_toNat h]
    exact (Nat.div_le_self _ _).trans (by omega)

theorem timerLegal_wall {s : State} (h : s.config.timebase = .wallClock) :
    timerLegal s ↔ s.blinkInterval.toNat ≤ 65535 := by
  simp only [timerLegal, h]

theorem timerLegal_tick {s : State} (h : s.config.timebase = .tickCount) :
    timerLegal s ↔ s.blinkInterval.toNat ≤ 65535000 ∧ s.blinkTimer.toNat < 65535000 := by
  simp only [timerLegal, h]

/-- The counter of an enabled refresh stays below the interval or at 0, and so below the wrap (R182). -/
theorem exec_keeps_timerLegal {i : Instr} {s t : State} (hs : s.Inv) (h : exec i s = .next t) : timerLegal t := by
  obtain ⟨hconfig, -, -⟩ := exec_keeps_inputs h
  cases htb : s.config.timebase with
  | wallClock =>
    rw [timerLegal_wall (hconfig ▸ htb)]
    rcases blinkInterval_exec_cases h with hi | ⟨ms, -, hi⟩ <;> rw [hi]
    · exact (timerLegal_wall htb).1 hs.timer_legal
    · exact (intervalOf_le s.config ms).1 htb
  | tickCount =>
    obtain ⟨hinterval, hcount⟩ := (timerLegal_tick htb).1 hs.timer_legal
    rw [timerLegal_tick (hconfig ▸ htb)]
    constructor
    · rcases blinkInterval_exec_cases h with hi | ⟨ms, -, hi⟩ <;> rw [hi]
      · exact hinterval
      · exact (intervalOf_le s.config ms).2 htb
    · rcases timer_exec_cases h with ⟨-, ht⟩ | ⟨-, -, ht⟩ <;> rw [ht]
      · exact hcount
      · have hlt := blinkUpdate_tick_lt hs htb
        omega

/-! ## The invariant as a whole -/

theorem exec_keeps_inv {i : Instr} {s t : State} (hs : s.Inv) (h : exec i s = .next t) : t.Inv where
  config_valid := (exec_keeps_inputs h).1 ▸ hs.config_valid
  memory_wf := exec_keeps_memory_wf hs.memory_wf h
  glyphs_legal := exec_keeps_glyphsLegal hs.glyphs_legal h
  cursor_le := exec_keeps_cursor_le hs.cursor_le h
  active_lt := exec_keeps_activeDigit_lt hs.active_lt h
  lines_legal := exec_keeps_linesLegal hs.lines_legal h
  timer_legal := exec_keeps_timerLegal hs h

/-- The ports, the trace and the answer are no part of the invariant. -/
theorem sample_keeps_inv {s : State} (h : s.Inv) : (sample s).Inv :=
  ⟨h.config_valid, h.memory_wf, h.glyphs_legal, h.cursor_le, h.active_lt, h.lines_legal, h.timer_legal⟩

theorem withResp_keeps_inv {s : State} (h : s.Inv) (r : Bool) : (s.withResp r).Inv :=
  ⟨h.config_valid, h.memory_wf, h.glyphs_legal, h.cursor_le, h.active_lt, h.lines_legal, h.timer_legal⟩

/-- What is to come on the input ports neither. -/
theorem presenting_keeps_inv {s : State} (h : s.Inv) (ps : List Ports) : (s.presenting ps).Inv :=
  ⟨h.config_valid, h.memory_wf, h.glyphs_legal, h.cursor_le, h.active_lt, h.lines_legal, h.timer_legal⟩

theorem step_keeps_inv {s t : State} (hs : s.Inv) (h : step s = .next t) : t.Inv :=
  step_keeps (P := State.Inv) (fun _ => sample_keeps_inv) (fun _ r hu => withResp_keeps_inv hu r)
    (fun _ _ _ => exec_keeps_inv) hs h

/-- Settles O47: sampling and an answer touch nothing the invariant speaks of, and every instruction keeps it. -/
theorem invariantKeptByEveryStep : Obligations.InvariantKeptByEveryStep := fun _ _ => step_keeps_inv

/-! ## Construction -/

/-- The buffer after construction reads blank in every slot (R35). -/
theorem Memory.fields_nil (i : SlotIndex) :
    Memory.glyph [] i = glyphBlank ∧ Memory.dp [] i = false ∧ Memory.blink [] i = false :=
  ⟨packSlot_glyph .., packSlot_bit7 .., packSlot_bit6 ..⟩

theorem timerLegal_initial (c : Config) : timerLegal (State.initial c) := by
  obtain ⟨hwall, htick⟩ := intervalOf_le c defaultBlinkIntervalMs
  cases htb : c.timebase with
  | wallClock => exact (timerLegal_wall htb).2 (hwall htb)
  | tickCount => exact (timerLegal_tick htb).2 ⟨htick htb, by show (0 : Word32).toNat < 65535000; decide⟩

theorem initial_inv {c : Config} (hv : c.valid = true) : (State.initial c).Inv where
  config_valid := hv
  memory_wf := Memory.wf_nil
  glyphs_legal i := by
    obtain ⟨hglyph, -, -⟩ := Memory.fields_nil i
    show (Memory.glyph [] i).toNat ≤ 17
    rw [hglyph]
    decide
  cursor_le := by show (0 : BitVec 5).toNat ≤ 16; decide
  active_lt := valid_count_pos hv
  lines_legal := ⟨rfl, List.forall_mem_nil _⟩
  timer_legal := timerLegal_initial c

/-- Settles O46: reset is construction with `K4`, which is valid. -/
theorem invariantAtConstruction : Obligations.InvariantAtConstruction :=
  ⟨fun _ hv => ⟨initial_inv hv, rfl⟩, initial_inv (by decide)⟩

/-- Settles O11: the fields of `State.initial`, with the interval of 300 ms in the unit of the timebase. -/
theorem constructionValues : Obligations.ConstructionValues := by
  intro c hv
  exact ⟨State.initial c, if_pos hv, Memory.fields_nil, rfl, rfl, rfl, rfl, rfl,
    fun h => intervalOf_wallClock_toNat h _, fun h => intervalOf_tickCount_toNat h _, fun _ => rfl, rfl, rfl⟩

/-- The wired pins are pairwise different exactly when no wired position shares its pin with another (R7). -/
theorem wiredPins_nodup_iff (c : Config) : c.wiredPins.Nodup ↔
    ∀ i j (hi : i < (c.segmentPins ++ c.commonDriverPins).length)
      (hj : j < (c.segmentPins ++ c.commonDriverPins).length), i ≠ j →
      (c.segmentPins ++ c.commonDriverPins)[i] ≠ unusedPin →
      (c.segmentPins ++ c.commonDriverPins)[i] ≠ (c.segmentPins ++ c.commonDriverPins)[j] := by
  rw [Config.wiredPins, List.Nodup, List.pairwise_filter, List.pairwise_iff_getElem]
  simp only [bne_iff_ne]
  constructor
  · intro h i j hi hj hij hw he
    rcases Nat.lt_or_gt_of_ne hij with hlt | hlt
    · exact h i j hi hj hlt hw (he ▸ hw) he
    · exact h j i hj hi hlt (he ▸ hw) hw he.symm
  · exact fun h i j hi hj hlt hw _ => h i j hi hj hlt.ne hw

theorem construct_eq_some_iff (c : Config) : (∃ s, State.construct c = some s) ↔ c.valid = true := by
  rw [State.construct]
  split <;> simp [*]

/-- No step in an invalid configuration (R7, U3). -/
theorem step_invalid {s : State} (h : s.config.valid = false) : step s = .refused .invalidConfiguration :=
  if_neg (by simp [h])

/-- Settles O12: construction checks R7 clause by clause, and so does every instruction and every step. -/
theorem invalidConfigurationHasNoStep : Obligations.InvalidConfigurationHasNoStep := by
  refine ⟨fun c => ?_, fun s hnone => ?_⟩
  · rw [construct_eq_some_iff, valid_iff, wiredPins_nodup_iff, and_assoc]
  · have hinvalid : s.config.valid = false := by
      by_contra hv
      obtain ⟨u, hu⟩ := (construct_eq_some_iff s.config).2 (by simpa using hv)
      rw [hnone] at hu
      cases hu
    exact ⟨step_invalid hinvalid, exec_invalid hinvalid⟩

end Sys2Proof.Machine
end

section
/-! The invariant of the lines (10_state.md R31 (I-d), (I-e), 42_mux_scheduler.md R163): a shutdown establishes it, an
enabled refresh moves the one common line that may be asserted, and no other instruction touches a line. -/

namespace Sys2Proof.Machine

/-! ## A shutdown -/

theorem Latch.driven_ne_unwritten {l : Latch} {v : Level} (h : l = .driven v) : l ≠ .unwritten := by
  rw [h]
  exact Latch.noConfusion

/-- Where every wired line is inactive, the lines are known. -/
theorem linesKnown_of_allInactive {s : State} (hboot : s.boot ≠ .fresh) (h : s.allInactive) : s.LinesKnown where
  shut_down := hboot
  disabled_inactive _ := h
  others_inactive i hi hw _ := h.1 i hi hw
  commons_written i hi hw := Latch.driven_ne_unwritten (h.1 i hi hw)
  segments_written k hk hw := Latch.driven_ne_unwritten (h.2 k hk hw)

/-- Settles O48: both instructions shut down, and neither leaves the history fresh. -/
theorem linesKnownAfterShutdown : Obligations.LinesKnownAfterShutdown := by
  rintro s i hv (rfl | rfl)
  · obtain ⟨t, hexec, -, hinactive, -, -, hframe⟩ := beginConfiguresClearsEnables.2 s hv
    have hboot : t.boot = .begun := congrArg State.boot hframe
    exact ⟨t, hexec, linesKnown_of_allInactive (by simp [hboot]) hinactive, hinactive, fun _ => hboot⟩
  · obtain ⟨t, hexec, -, hinactive, -, -, hboot, -⟩ := nodisplayShutsDown.2 s hv
    exact ⟨t, hexec, linesKnown_of_allInactive hboot hinactive, hinactive, fun hi => nomatch hi⟩

/-! ## An enabled refresh -/

section Refresh
variable {s t : State} (hs : s.Inv) (he : s.enabled = true) (h : exec .refresh s = .next t)
include hs he h

/-- What an enabled refresh keeps besides the buffer and the cursor, and where it moves the index (R155). -/
theorem refresh_frame : t.config = s.config ∧ t.memory = s.memory ∧ t.cursor = s.cursor ∧ t.enabled = true ∧
    t.blinkInterval = s.blinkInterval ∧ t.boot = s.boot ∧ t.ports = s.ports ∧ t.pending = s.pending ∧
    t.activeDigit.toNat = (s.activeDigit.toNat + 1) % s.config.displaysCount := by
  obtain ⟨u, g, hexec, -, -, -, -, -, -, -, -, -, hindex, hframe⟩ :=
    refreshLightsTheActiveDigit.2 s hs.config_valid he hs.active_lt (hs.glyphs_legal _)
  obtain rfl : t = u := Host.Outcome.next.inj (h.symm.trans hexec)
  refine ⟨?_, ?_, ?_, ?_, ?_, ?_, ?_, ?_, hindex⟩ <;> rw [hframe]
  exact he

/-- The segment lines show the effective glyph of the active digit and its point (R157, R158). -/
theorem refresh_segments : ∃ g : Fin 18,
    g.val = (if Memory.blink s.memory s.activeDigit = true ∧ t.blinkOff = true then 16
      else (Memory.glyph s.memory s.activeDigit).toNat) ∧
    (∀ k, k < 7 → segmentWired s.config k →
      t.line (segmentPin s.config k) = .driven (segLevel s.config (s.config.glyphMask[g].getLsbD k))) ∧
    (segmentWired s.config 7 →
      t.line (segmentPin s.config 7) = .driven (segLevel s.config (Memory.dp s.memory s.activeDigit))) := by
  obtain ⟨u, g, hexec, hrow, -, -, -, hbars, hpoint, -⟩ :=
    refreshLightsTheActiveDigit.2 s hs.config_valid he hs.active_lt (hs.glyphs_legal _)
  obtain rfl : t = u := Host.Outcome.next.inj (h.symm.trans hexec)
  exact ⟨g, hrow, hbars, hpoint⟩

/-- Every wired segment line has been written by the refresh. -/
theorem refresh_segment_driven {k : Nat} (hk : k < 8) (hw : segmentWired s.config k) :
    ∃ l, t.line (segmentPin s.config k) = .driven l := by
  obtain ⟨g, -, hbars, hpoint⟩ := refresh_segments hs he h
  rcases Nat.lt_or_ge k 7 with hlt | hge
  · exact ⟨_, hbars k hlt hw⟩
  · obtain rfl : k = 7 := by omega
    exact ⟨_, hpoint hw⟩

/-- With the lines known before, the common lines hold the one-hot code of the active digit (R161): its line was written
last, the line of the previous digit first, and the others were inactive already. -/
theorem refresh_commons (hk : s.LinesKnown) {i : Nat} (hi : i < s.config.displaysCount)
    (hw : commonWired s.config i) : t.line (commonPin s.config i) = .driven
      (if i = s.activeDigit.toNat then s.config.commonActiveLevel else !s.config.commonActiveLevel) := by
  obtain ⟨u, g, hexec, -, -, -, -, -, -, hactive, hothers, -⟩ :=
    refreshLightsTheActiveDigit.2 s hs.config_valid he hs.active_lt (hs.glyphs_legal _)
  obtain rfl : t = u := Host.Outcome.next.inj (h.symm.trans hexec)
  obtain ⟨hconfig, -⟩ := refresh_frame hs he h
  by_cases hia : i = s.activeDigit.toNat
  · rw [if_pos hia]
    subst hia
    exact (State.commonAsserted_iff hconfig _).1 (hactive hw)
  · rw [if_neg hia]
    obtain ⟨hprevious, hother⟩ := hothers i hi hia hw
    by_cases hip : i = previousDigit s.config.displaysCount s.activeDigit.toNat
    · exact (State.commonInactive_iff hconfig _).1 (hprevious hip)
    · exact (hother hip).trans (hk.others_inactive i hi hw hip)

/-- An enabled refresh keeps the lines known: the digit refreshed is the previous one of the index it leaves. -/
theorem refresh_keeps_linesKnown (hk : s.LinesKnown) : t.LinesKnown := by
  obtain ⟨hconfig, -, -, henabled, -, hboot, -, -, hindex⟩ := refresh_frame hs he h
  have hprevious : previousDigit s.config.displaysCount t.activeDigit.toNat = s.activeDigit.toNat := by
    rw [hindex]
    exact previousDigit_nextDigit hs.active_lt
  constructor
  case shut_down => rw [hboot]; exact hk.shut_down
  case disabled_inactive => exact fun hoff => absurd (hoff.symm.trans henabled) Bool.false_ne_true
  all_goals rw [hconfig]
  case others_inactive =>
    rw [hprevious]
    intro i hi hw hia
    rw [State.commonInactive_iff hconfig, refresh_commons hs he h hk hi hw, if_neg hia]
  case commons_written => exact fun i hi hw => Latch.driven_ne_unwritten (refresh_commons hs he h hk hi hw)
  case segments_written =>
    intro k hlt hw
    obtain ⟨l, hl⟩ := refresh_segment_driven hs he h hlt hw
    exact Latch.driven_ne_unwritten hl

end Refresh

/-! ## Every instruction -/

/-- What the invariant of the lines speaks of: with the same lines, digit, history and configuration it is the same, and
enabling leaves less to show. -/
theorem linesKnown_of_same_lines {s t : State} (hk : s.LinesKnown) (hconfig : t.config = s.config)
    (hlines : t.lines = s.lines) (hactive : t.activeDigit = s.activeDigit) (hboot : t.boot = s.boot)
    (henabled : t.enabled = false → s.enabled = false) : t.LinesKnown := by
  constructor
  case shut_down => rw [hboot]; exact hk.shut_down
  case disabled_inactive =>
    exact fun hoff => (State.allInactive_congr hconfig hlines).2 (hk.disabled_inactive (henabled hoff))
  all_goals simp only [State.commonInactive, State.line_congr hlines, hconfig, hactive]
  case others_inactive => exact hk.others_inactive
  case commons_written => exact hk.commons_written
  case segments_written => exact hk.segments_written

/-- The invariant of the lines under its premise (R31): once a `BEGIN` or a `NODISPLAY` was performed. -/
def State.LinesKnownOnceShut (s : State) : Prop := s.boot ≠ .fresh → s.LinesKnown

/-- A shutdown establishes the invariant, an enabled refresh moves the asserted line, every other instruction leaves the
lines, the digit and the history, and disables nothing. -/
theorem exec_keeps_linesKnown {i : Instr} {s t : State} (hs : s.Inv) (hk : s.LinesKnownOnceShut)
    (h : exec i s = .next t) : t.LinesKnownOnceShut := by
  intro hboot
  obtain ⟨hconfig, -, -⟩ := exec_keeps_inputs h
  obtain ⟨hactive, henabled⟩ := scheduler_exec h
  by_cases hdown : i = .begin ∨ i = .nodisplay
  · obtain ⟨u, hexec, hknown, -⟩ := linesKnownAfterShutdown s i hs.config_valid hdown
    obtain rfl : t = u := Host.Outcome.next.inj (h.symm.trans hexec)
    exact hknown
  obtain ⟨hbegin, hnodisplay⟩ := not_or.1 hdown
  have hsame : t.boot = s.boot := (boot_exec_cases h).resolve_right fun hchanged =>
    hdown (hchanged.imp And.left And.left)
  have hknown : s.LinesKnown := hk (hsame ▸ hboot)
  by_cases hrefresh : i = .refresh ∧ s.enabled = true
  · obtain ⟨rfl, he⟩ := hrefresh
    exact refresh_keeps_linesKnown hs he h hknown
  · rcases lines_exec_cases h with ⟨hlines, -⟩ | ⟨hi, -⟩ | ⟨hi, -⟩
    · refine linesKnown_of_same_lines hknown hconfig hlines ?_ hsame fun hoff => ?_
      · by_contra hne
        exact (activeDigitAfter_ne (hactive ▸ hne)).elim hnodisplay hrefresh
      · by_contra hon
        rw [Bool.not_eq_false] at hon
        rw [henabled] at hoff
        rcases enabledAfter_ne (i := i) (enabled := s.enabled) (by rw [hoff, hon]; exact Bool.false_ne_true) with
          hi | rfl | hi
        · exact hbegin hi
        · cases hoff
        · exact hnodisplay hi
    · exact absurd hi hdown
    · exact absurd hi hrefresh

/-! ## Every step -/

/-- `t` is as far in the boot sequence as `s`, or further (R232). -/
def State.BootReached (s t : State) : Prop := (s.boot ≠ .fresh → t.boot ≠ .fresh) ∧ (s.boot = .begun → t.boot = .begun)

theorem exec_keeps_bootReached {i : Instr} {s u t : State} (hs : s.BootReached u) (h : exec i u = .next t) :
    s.BootReached t := by
  rcases boot_exec_cases h with hb | ⟨-, hb⟩ | ⟨-, hb⟩ <;> rw [State.BootReached, hb]
  · exact hs
  · exact ⟨fun _ => Boot.noConfusion, fun _ => rfl⟩
  · exact ⟨fun _ => Boot.afterShutdown_ne_fresh _, fun hbegun => (Boot.afterShutdown_eq_begun_iff _).2 (hs.2 hbegun)⟩

/-- Both invariants together, and the history since `s`, through a step. -/
theorem step_keeps_linesKnown {s t : State} (hs : s.Inv) (hk : s.LinesKnownOnceShut) (h : step s = .next t) :
    t.LinesKnownOnceShut ∧ s.BootReached t := by
  have hsame (u v : State) (hconfig : v.config = u.config) (hlines : v.lines = u.lines)
      (hactive : v.activeDigit = u.activeDigit) (hboot : v.boot = u.boot) (henabled : v.enabled = u.enabled)
      (hu : u.LinesKnownOnceShut) : v.LinesKnownOnceShut := fun hshut =>
    linesKnown_of_same_lines (hu (hboot ▸ hshut)) hconfig hlines hactive hboot (henabled ▸ id)
  refine (step_keeps (P := fun u => u.Inv ∧ u.LinesKnownOnceShut ∧ s.BootReached u) ?sampled ?answered ?performed
    ⟨hs, hk, id, id⟩ h).2
  case sampled =>
    exact fun u ⟨hinv, hknown, hboot⟩ => ⟨sample_keeps_inv hinv, hsame u (sample u) rfl rfl rfl rfl rfl hknown, hboot⟩
  case answered =>
    exact fun u r ⟨hinv, hknown, hboot⟩ =>
      ⟨withResp_keeps_inv hinv r, hsame u (u.withResp r) rfl rfl rfl rfl rfl hknown, hboot⟩
  case performed =>
    exact fun i u v ⟨hinv, hknown, hboot⟩ hx =>
      ⟨exec_keeps_inv hinv hx, exec_keeps_linesKnown hinv hknown hx, exec_keeps_bootReached hboot hx⟩

/-- Settles O49: every instruction keeps the invariant of the lines under its premise, and the history. -/
theorem linesKnownKeptByEveryStep : Obligations.LinesKnownKeptByEveryStep := by
  intro s t hs hk h
  obtain ⟨hknown, hfresh, hbegun⟩ := step_keeps_linesKnown hs hk h
  exact ⟨hknown, hfresh, hbegun⟩

/-! ## Every run -/

/-- From a state of both invariants every run completes, whatever is still to come on the input ports. -/
theorem run_completes (n : Nat) {s : State} (hs : s.Inv) (hk : s.LinesKnownOnceShut) :
    ∃ t : State, Host.Core.run Sys2Proof.core n s = .next t ∧ t.Inv ∧ t.LinesKnownOnceShut ∧ t.config = s.config := by
  induction n generalizing s with
  | zero => exact ⟨s, rfl, hs, hk, rfl⟩
  | succ n ih =>
    obtain ⟨u, hstep⟩ := step_completes hs.runnable
    obtain ⟨hknown, -⟩ := step_keeps_linesKnown hs hk hstep
    obtain ⟨t, hrun, hinv, hlines, hconfig⟩ := ih (step_keeps_inv hs hstep) hknown
    exact ⟨t, (run_succ hstep n).trans hrun, hinv, hlines, hconfig.trans (step_config hstep)⟩

/-- Settles O45: construction starts in the invariant, with the history fresh. -/
theorem everyRunFromConstructionCompletes : Obligations.EveryRunFromConstructionCompletes := fun _ ps hv =>
  run_completes ps.length (presenting_keeps_inv (initial_inv hv) ps) fun hboot => absurd rfl hboot

end Sys2Proof.Machine
end

section
/-! The refresh step line by line (42_mux_scheduler.md section 5) and its one stop (93_implementation_defined.md U1). -/

namespace Sys2Proof.Machine

/-! ## Where an enabled refresh stops -/

theorem glyphRow_eq_none_iff (g : GlyphCode) : glyphRow g = none ↔ 18 ≤ g.toNat := by
  rcases Nat.lt_or_ge g.toNat 18 with h | h
  · simp [glyphRow_some h, h]
  · simp [glyphRow_none h, h]

/-- A code without a row stops the refresh, but for a slot the phase blanks (R121, R157). -/
theorem glyphRow_effectiveGlyph_eq_none_iff (s : State) (a : SlotIndex) :
    glyphRow (effectiveGlyph s a) = none ↔
      18 ≤ (Memory.glyph s.memory a).toNat ∧ ¬ (Memory.blink s.memory a = true ∧ s.blinkOff = true) := by
  rw [glyphRow_eq_none_iff, ← Bool.and_eq_true, effectiveGlyph]
  split
  · rename_i hblank
    exact ⟨fun h => absurd h (by decide), fun h => absurd hblank h.2⟩
  · rename_i hshown
    exact (and_iff_left hshown).symm

/-- With a digit that exists, an enabled refresh is refused for want of a row and for nothing else (U1). -/
theorem refreshEnabled_eq_refused {s : State} (ha : s.activeDigit.toNat < s.config.displaysCount) {r : Refusal} :
    refreshEnabled s = .refused r ↔
      glyphRow (effectiveGlyph (blinkUpdate s) s.activeDigit) = none ∧ r = .glyphCodeOutOfRange := by
  rw [refreshEnabled, if_neg (Nat.not_le.2 ha)]
  split
  · rename_i hrow
    simp [hrow, eq_comm]
  · rename_i g hrow
    simp [hrow]

/-- Settles O34: the refusal is the missing row of the effective glyph. -/
theorem glyphBeyondTableRefused : Obligations.GlyphBeyondTableRefused := by
  intro s hv he ha
  have hmissing := glyphRow_effectiveGlyph_eq_none_iff (blinkUpdate s) s.activeDigit
  rw [blinkUpdate_memory] at hmissing
  simp only [exec_refresh_enabled hv he, refreshEnabled_eq_refused ha, ← hmissing]
  exact ⟨⟨fun ⟨_, hnone, _⟩ => hnone, fun hnone => ⟨_, hnone, rfl⟩⟩, fun _ h => h.2⟩

/-! ## The phase with the shortest intervals -/

/-- Settles O39: with these intervals the toggle is due at every update, whatever the timer. -/
theorem zeroIntervalTogglesEveryRefresh : Obligations.ZeroIntervalTogglesEveryRefresh := by
  intro s hs he hshort
  obtain ⟨g, -, hrun⟩ := exec_refresh_runs hs.config_valid he hs.active_lt (hs.glyphs_legal _)
  refine ⟨_, hrun, ?_⟩
  rw [answer, State.withResp_blinkOff, State.withResp_blinkTimer, scanDigit_blinkOff, scanDigit_blinkTimer]
  cases htb : s.config.timebase with
  | wallClock =>
    have hzero : s.blinkInterval = 0 := hshort.resolve_right fun h => nomatch htb.symm.trans h.1
    obtain ⟨hphase, htimer⟩ := blinkUpdate_wall_toggles htb (by rw [hzero]; exact Nat.zero_le _)
    exact ⟨hphase, fun _ => htimer, nofun⟩
  | tickCount =>
    have hle : s.blinkInterval.toNat ≤ 1 := by
      rcases hshort with h | ⟨-, h⟩ <;> rw [h] <;> decide
    obtain ⟨hphase, htimer⟩ := blinkUpdate_tick_toggles hs htb (by omega)
    exact ⟨hphase, nofun, fun _ => htimer⟩

/-! ## The writes in order -/

section Dark
variable (c : Config) (a : Nat) (mask : Byte) (dp : Bool)

/-- The writes of a refresh but the last: the previous common line off, then the segment lines (R155 steps 2 and 4). -/
def darkWrites : List (PinId × Level) :=
  (commonPin c (previousDigit c.displaysCount a), comLevel c false) ::
    (List.range numSegments).map (fun k => (segmentPin c k, segLevel c (segmentLitBit mask dp k)))

/-- The last write of a refresh turns the common line of the digit on. -/
theorem refreshWrites_eq_append :
    refreshWrites c a mask dp = darkWrites c a mask dp ++ [(commonPin c a, comLevel c true)] := rfl

theorem darkWrites_length : (darkWrites c a mask dp).length = 9 := by simp [darkWrites, numSegments]

variable {c a mask dp}

theorem mem_darkWrites {w : PinId × Level} : w ∈ darkWrites c a mask dp ↔
    w = (commonPin c (previousDigit c.displaysCount a), !c.commonActiveLevel) ∨
    ∃ k < 8, w = (segmentPin c k, segLevel c (segmentLitBit mask dp k)) := by
  simp [darkWrites, numSegments, eq_comm]

/-- After the first of these writes, and before the last write of the refresh, every common line is inactive: the only
one that may have been asserted is turned off first, and no segment line shares a pin with one (R234). -/
theorem commonInactive_darkWrites_take {s : State} (hv : s.config.valid = true) (ha : a < s.config.displaysCount)
    (hothers : ∀ i, i < s.config.displaysCount → commonWired s.config i →
      i ≠ previousDigit s.config.displaysCount a → s.commonInactive i)
    {n : Nat} (hn : 1 ≤ n) {i : Nat} (hi : i < s.config.displaysCount) (hw : commonWired s.config i) :
    (gpioWrites ((darkWrites s.config a mask dp).take n) s).commonInactive i := by
  rw [State.commonInactive_iff (gpioWrites_config ..)]
  have hpin {w : PinId × Level} (hmem : w ∈ (darkWrites s.config a mask dp).take n)
      (he : w.1 = commonPin s.config i) :
      w = (commonPin s.config (previousDigit s.config.displaysCount a), !s.config.commonActiveLevel) := by
    rcases mem_darkWrites.1 (List.mem_of_mem_take hmem) with hfirst | ⟨k, hk, rfl⟩
    · exact hfirst
    · exact absurd he.symm (commonPin_ne_segmentPin hv hi hk hw)
  by_cases hip : i = previousDigit s.config.displaysCount a
  · obtain ⟨m, rfl⟩ := Nat.exists_eq_add_of_le' hn
    refine line_gpioWrites_of_mem hw ?_ (fun w hmem he => ?_) s
    · rw [hip]
      exact List.mem_cons_self
    · rw [hpin hmem he]
  · refine (line_gpioWrites_of_not_mem (fun w hmem he => hip ?_) s).trans (hothers i hi hw hip)
    rw [hpin hmem he] at he
    exact commonPin_inj hv hi (previousDigit_lt ha) hw he.symm

/-- Only the writes after the first and before the last are to segment lines. -/
theorem segment_write_position (hv : c.valid = true) (ha : a < c.displaysCount) {n k : Nat} {l : Level} (hn : n < 10)
    (hk : k < 8) (hw : segmentWired c k) (h : (refreshWrites c a mask dp)[n]? = some (segmentPin c k, l)) :
    1 ≤ n ∧ n ≤ 8 := by
  have hno {i : Nat} {l' : Level} (hi : i < c.displaysCount) :
      some (commonPin c i, l') ≠ some (segmentPin c k, l) := fun he =>
    have hpin : commonPin c i = segmentPin c k := congrArg Prod.fst (Option.some.inj he)
    commonPin_ne_segmentPin hv hi hk (fun hu => hw (hpin.symm.trans hu)) hpin
  have hfirst : n ≠ 0 := by
    rintro rfl
    exact hno (previousDigit_lt ha) h
  have hlast : n ≠ 9 := by
    rintro rfl
    exact hno ha h
  omega

end Dark

/-- Settles O51: the first nine writes are `darkWrites`, and the latches a refresh starts from are those before the
blink update. -/
theorem segmentsChangeInTheDark : Obligations.SegmentsChangeInTheDark := by
  intro s hs hk he
  have hv := hs.config_valid
  have ha := hs.active_lt
  obtain ⟨g, hrow, -⟩ := exec_refresh_runs hv he ha (hs.glyphs_legal _)
  refine ⟨_, g, _, exec_refresh_writes hv he ha hrow, rfl, ?count, ?calls,
    lines_gpioWrites_congr (blinkUpdate_lines s) _, fun n hn hn9 i hi hw => ?dark,
    fun n k hn hk8 hw ⟨l, hl⟩ => segment_write_position hv ha hn hk8 hw hl⟩
  case count => rw [refreshWrites_eq_append, List.length_append, darkWrites_length]; rfl
  case calls => exact (gpioWrites_trace ..).trans (by rw [blinkUpdate_trace]; rfl)
  case dark =>
    rw [refreshWrites_eq_append, List.take_append_of_le_length (by rwa [darkWrites_length])]
    exact commonInactive_darkWrites_take hv ha hk.others_inactive hn hi hw

/-- Settles O33: the previous digit of the only digit is the digit itself. -/
theorem singleDigitRefresh : Obligations.SingleDigitRefresh := by
  intro s hv he hcount hdigit hg
  have ha : s.activeDigit.toNat < s.config.displaysCount := by rw [hcount, hdigit]; decide
  obtain ⟨g, hrow, -⟩ := exec_refresh_runs hv he ha (by rwa [hdigit])
  have hzip (level : Nat → Level) : s.config.segmentPins.zip ((List.range numSegments).map level) =
      (List.range numSegments).map (fun k => (segmentPin s.config k, level k)) := by
    rw [← map_segmentPin_range hv, List.zip_map']
  refine ⟨_, (List.range numSegments).map fun k => segLevel s.config
    (segmentLitBit s.config.glyphMask[g] (Memory.dp s.memory s.activeDigit) k), exec_refresh_writes hv he ha hrow,
    by rw [List.length_map, List.length_range]; rfl, ?calls, ?index⟩
  case calls =>
    refine (gpioWrites_trace ..).trans ?_
    rw [blinkUpdate_trace, hzip, refreshWrites, hdigit, hcount]
    rfl
  case index =>
    show BitVec.ofNat 4 (nextDigit s.config.displaysCount s.activeDigit.toNat) = 0
    rw [hcount, hdigit]
    rfl

/-! ## What the display shows -/

/-- Settles O50: the one-hot code after an enabled refresh, and the clause of the invariant while disabled. -/
theorem commonLineDecoder : Obligations.CommonLineDecoder := by
  refine fun s hs hk => ⟨fun he => ?_, hk.disabled_inactive⟩
  obtain ⟨t, h⟩ := exec_completes hs.runnable .refresh
  exact ⟨t, h, fun i hi hw => refresh_commons hs he h hk hi hw⟩

section PinLevel
variable {s : State} (free : PinId → Level) {p : PinId}

theorem State.pinLevel_of_driven (hboot : s.boot = .begun) {l : Level} (h : s.line p = .driven l) :
    s.pinLevel free p = l := by
  rw [State.pinLevel, if_pos hboot, h]

theorem State.pinLevel_of_not_begun (hboot : s.boot ≠ .begun) : s.pinLevel free p = free p := by
  rw [State.pinLevel, if_neg hboot]

end PinLevel

/-- After an enabled refresh every wired line is driven, so no unknown level enters what is shown (R36, R161). -/
theorem refresh_shows_iff {s t : State} (hs : s.Inv) (hk : s.LinesKnown) (hboot : s.boot = .begun)
    (he : s.enabled = true) (h : exec .refresh s = .next t) (free : PinId → Level) {i k : Nat}
    (hi : i < s.config.displaysCount) (hk8 : k < 8) (hwi : commonWired s.config i) (hwk : segmentWired s.config k) :
    t.shows free i k ↔ i = s.activeDigit.toNat ∧ t.segmentLit k := by
  obtain ⟨hconfig, -, -, -, -, hhistory, -⟩ := refresh_frame hs he h
  have hbegun : t.boot = .begun := hhistory.trans hboot
  obtain ⟨l, hsegment⟩ := refresh_segment_driven hs he h hk8 hwk
  have hcommon := refresh_commons hs he h hk hi hwi
  have hlevel : (if i = s.activeDigit.toNat then s.config.commonActiveLevel else !s.config.commonActiveLevel) =
      s.config.commonActiveLevel ↔ i = s.activeDigit.toNat := by
    split <;> simp [*]
  rw [State.shows, State.segmentLit, hconfig, State.pinLevel_of_driven free hbegun hcommon,
    State.pinLevel_of_driven free hbegun hsegment, hsegment, hlevel, Latch.driven.injEq]

/-- The levels that make a segment show where nothing is known: the common line's active level on its pin, the segment
lines' active level on every other. -/
def litLevels (c : Config) (i : Nat) (p : PinId) : Level :=
  if p = commonPin c i then c.commonActiveLevel else c.segmentActiveLevel

/-- Settles O52: after a `BEGIN` the lines alone decide; without one the levels do, and some of them light the
segment. -/
theorem onlyTheActiveDigitShows : Obligations.OnlyTheActiveDigitShows := by
  refine ⟨fun s hs hk hboot he => ?_, fun s i k hv hboot hi hk8 hwi hwk =>
    ⟨⟨litLevels s.config i, ?_⟩, fun _ => !s.config.commonActiveLevel, ?_⟩⟩
  · obtain ⟨t, h⟩ := exec_completes hs.runnable .refresh
    exact ⟨t, h, fun free i k hi hk8 hwi hwk => refresh_shows_iff hs hk hboot he h free hi hk8 hwi hwk⟩
  · have hne : segmentPin s.config k ≠ commonPin s.config i := (commonPin_ne_segmentPin hv hi hk8 hwi).symm
    rw [State.shows, State.pinLevel_of_not_begun _ hboot, State.pinLevel_of_not_begun _ hboot, litLevels, litLevels,
      if_pos rfl, if_neg hne]
    exact ⟨rfl, rfl⟩
  · rw [State.shows, State.pinLevel_of_not_begun _ hboot]
    exact fun hshows => Bool.not_ne_self _ hshows.1

end Sys2Proof.Machine
end

section
/-! The display buffer as a whole (20_memory.md R63, R64, R66) and the strings written to it (30_encoding.md R107). -/

namespace Sys2Proof.Machine

/-! ## The packed view -/

theorem Assoc.mem_of_lookup {α : Type} {k : Nat} {v : α} {l : List (Nat × α)} (h : Assoc.lookup k l = some v) :
    (k, v) ∈ l := by
  induction l with
  | nil => cases h
  | cons c l ih =>
    rw [Assoc.lookup_cons] at h
    split at h
    · next hk => exact List.mem_cons.2 (.inl (Prod.ext hk (Option.some.inj h).symm))
    · exact List.mem_cons_of_mem _ (ih h)

/-- In canonical form bit 5 of every slot reads 0, listed or not (R63). -/
theorem Memory.read_bit5 {m : Memory} (hm : Memory.wf m = true) (i : SlotIndex) : (Memory.read m i)[5] = false := by
  obtain ⟨-, hentries⟩ := (Memory.wf_iff m).1 hm
  cases h : Assoc.lookup i.toNat m with
  | none =>
    have hread : Memory.read m i = blankByte := by rw [Memory.read, h]; rfl
    rw [hread, blankByte, packSlot_bit5]
  | some v =>
    have hread : Memory.read m i = v := by rw [Memory.read, h]; rfl
    rw [hread]
    obtain ⟨-, -, hbit⟩ := hentries _ (Assoc.mem_of_lookup h)
    exact hbit

/-- What a whole-slot write stores, field by field (R63). -/
theorem Memory.fields_write (m : Memory) (i : SlotIndex) (v : Byte) :
    Memory.dp (Memory.write m i v) i = v[7] ∧ Memory.blink (Memory.write m i v) i = v[6] ∧
      Memory.glyph (Memory.write m i v) i = v.extractLsb' 0 5 ∧ (Memory.read (Memory.write m i v) i)[5] = false := by
  have hread : Memory.read (Memory.write m i v) i = packSlot v[7] v[6] (v.extractLsb' 0 5) := by
    rw [Memory.read_write, if_pos rfl, storedByte]
  rw [Memory.dp, Memory.blink, Memory.glyph, hread]
  exact ⟨packSlot_bit7 .., packSlot_bit6 .., packSlot_glyph .., packSlot_bit5 ..⟩

/-- Settles O13: the fields are the bits of the packed byte, of which the canonical form leaves bit 5 at 0. -/
theorem packedSlotView : Obligations.PackedSlotView := by
  intro m hm
  refine ⟨fun i => ⟨rfl, rfl, Memory.read_bit5 hm i, rfl⟩, Memory.fields_write m,
    fun i j v hj => Memory.read_write_of_ne hj v, ?_⟩
  rintro s rfl
  exact ⟨rfl, rfl, rfl⟩

/-! ## Stores performed again -/

/-- A slot that already reads `v` as it is stored is not changed by writing `v` to it. -/
theorem Memory.write_eq_self {m : Memory} (hm : Memory.wf m = true) {i : SlotIndex} {v : Byte}
    (h : Memory.read m i = storedByte v) : Memory.write m i v = m := by
  refine Memory.eq_of_read_eq (Memory.wf_write i v hm) hm fun j => ?_
  rw [Memory.read_write]
  split
  · next hj => rw [hj, h]
  · rfl

section Again
variable {m : Memory} (hm : Memory.wf m = true)
include hm

/-- Storing a point again finds the byte already there. -/
theorem Memory.setDp_setDp (i : SlotIndex) (b : Bool) :
    Memory.setDp (Memory.setDp m i b) i b = Memory.setDp m i b := by
  refine Memory.write_eq_self (Memory.wf_setDp i b hm) ?_
  rw [Memory.blink_setDp, Memory.glyph_setDp, storedByte_packSlot, Memory.setDp, Memory.read_write_packSlot, if_pos rfl]

/-- Storing a blink flag again, likewise. -/
theorem Memory.setBlink_setBlink (i : SlotIndex) (b : Bool) :
    Memory.setBlink (Memory.setBlink m i b) i b = Memory.setBlink m i b := by
  refine Memory.write_eq_self (Memory.wf_setBlink i b hm) ?_
  rw [Memory.dp_setBlink, Memory.glyph_setBlink, storedByte_packSlot, Memory.setBlink, Memory.read_write_packSlot,
    if_pos rfl]

theorem Memory.clearAll_clearAll : Memory.clearAll (Memory.clearAll m) = Memory.clearAll m :=
  Memory.eq_of_read_eq (Memory.wf_clearAll (Memory.wf_clearAll hm)) (Memory.wf_clearAll hm) fun i => by
    rw [Memory.read_clearAll, Memory.read_clearAll]

theorem Memory.clearBlinks_clearBlinks : Memory.clearBlinks (Memory.clearBlinks m) = Memory.clearBlinks m :=
  Memory.eq_of_read_eq (Memory.wf_clearBlinks (Memory.wf_clearBlinks hm)) (Memory.wf_clearBlinks hm) fun i => by
    rw [Memory.read_clearBlinks, Memory.read_clearBlinks, Memory.dp_clearBlinks, Memory.glyph_clearBlinks]

end Again

/-- A command whose effect is `f` in every state with the same configuration is idempotent where `f` is. -/
theorem exec_again {i : Instr} {s t : State} {f : State → State}
    (hf : ∀ u : State, u.config = s.config → exec i u = .next (f u)) (hidem : f (f s) = f s)
    (h : exec i s = .next t) : exec i t = .next t := by
  obtain rfl : f s = t := Host.Outcome.next.inj ((hf s rfl).symm.trans h)
  rw [hf (f s) (exec_keeps_inputs h).1, hidem]

/-- A command that stores in the buffer only is idempotent where what it does to the buffer is. -/
theorem exec_again_of_memory {i : Instr} {s t : State} {m : Memory → Memory}
    (hf : ∀ u : State, u.config = s.config → exec i u = .next (answer false (u.withMemory (m u.memory))))
    (hidem : m (m s.memory) = m s.memory) (h : exec i s = .next t) : exec i t = .next t :=
  exec_again (f := fun u => answer false (u.withMemory (m u.memory))) hf
    (congrArg (fun n => answer false (s.withMemory n)) hidem) h

/-- Likewise for a command that sets the cursor besides. -/
theorem exec_again_of_memory_cursor {i : Instr} {s t : State} {m : Memory → Memory} {c : BitVec 5}
    (hf : ∀ u : State, u.config = s.config →
      exec i u = .next (answer false ((u.withMemory (m u.memory)).withCursor c)))
    (hidem : m (m s.memory) = m s.memory) (h : exec i s = .next t) : exec i t = .next t :=
  exec_again (f := fun u => answer false ((u.withMemory (m u.memory)).withCursor c)) hf
    (congrArg (fun n => answer false ((s.withMemory n).withCursor c)) hidem) h

/-- Settles O25: every command left by the hypotheses stores the same values again. -/
theorem storesAreIdempotent : Obligations.StoresAreIdempotent := by
  intro i s t hs hwrite hbegin hnodisplay hrefresh h
  have hv {u : State} (hu : u.config = s.config) : u.config.valid = true := hu ▸ hs.config_valid
  have hm := hs.memory_wf
  cases i with
  | begin => exact absurd rfl hbegin
  | nodisplay => exact absurd rfl hnodisplay
  | refresh => exact absurd rfl hrefresh
  | write ch => exact absurd rfl (hwrite ch)
  | clear =>
    exact exec_again_of_memory_cursor (m := Memory.clearAll) (fun _ hu => exec_clear (hv hu))
      (Memory.clearAll_clearAll hm) h
  | home => exact exec_again (fun _ hu => exec_home (hv hu)) rfl h
  | setcursor pos => exact exec_again (fun _ hu => exec_setcursor (hv hu) pos) rfl h
  | display => exact exec_again (fun _ hu => exec_display (hv hu)) rfl h
  | setblinkinterval ms => exact exec_again (fun _ hu => exec_setblinkinterval (hv hu) ms) rfl h
  | noblink =>
    exact exec_again_of_memory (m := Memory.clearBlinks) (fun _ hu => exec_noblink (hv hu))
      (Memory.clearBlinks_clearBlinks hm) h
  | setdp d on =>
    rcases Nat.lt_or_ge d.toNat 16 with hd | hd
    · exact exec_again_of_memory (m := fun n => Memory.setDp n (BitVec.ofNat 4 d.toNat) on)
        (fun _ hu => exec_setdp (hv hu) hd on) (Memory.setDp_setDp hm _ on) h
    · exact exec_again (fun _ hu => exec_setdp_out (hv hu) hd on) rfl h
  | blinkdigit d =>
    rcases Nat.lt_or_ge d.toNat 16 with hd | hd
    · exact exec_again_of_memory (m := fun n => Memory.setBlink n (BitVec.ofNat 4 d.toNat) true)
        (fun _ hu => exec_blinkdigit (hv hu) hd) (Memory.setBlink_setBlink hm _ true) h
    · exact exec_again (fun _ hu => exec_blinkdigit_out (hv hu) hd) rfl h
  | noblinkdigit d =>
    rcases Nat.lt_or_ge d.toNat 16 with hd | hd
    · exact exec_again_of_memory (m := fun n => Memory.setBlink n (BitVec.ofNat 4 d.toNat) false)
        (fun _ hu => exec_noblinkdigit (hv hu) hd) (Memory.setBlink_setBlink hm _ false) h
    · exact exec_again (fun _ hu => exec_noblinkdigit_out (hv hu) hd) rfl h

/-! ## `WRITESTR` -/

theorem runWritestr_cons {c : Byte} {cs : List Byte} {s t u : State} {n : Nat} (h : exec (.write c) s = .next t)
    (hrest : runWritestr cs t = .next (u, n)) :
    runWritestr (c :: cs) s = .next (u, t.resp.toNat + n) := by
  simp only [runWritestr, h, hrest]

/-- What the string `cs` made of `s`, `n` of its characters consumed (R107): character `k` is encoded in the slot `k`
after the cursor, every other slot is as it was, and nothing else but the cursor and the answer is written. -/
structure WroteString (cs : List Byte) (s t : State) (n : Nat) : Prop where
  consumed : n = min cs.length (16 - s.cursor.toNat)
  cursor : t.cursor.toNat = s.cursor.toNat + n
  glyphs : ∀ (k : Nat) (hk : k < cs.length), k < n →
    Memory.glyph t.memory (BitVec.ofNat 4 (s.cursor.toNat + k)) = encodeChar cs[k]
  others : ∀ j : SlotIndex, (j.toNat < s.cursor.toNat ∨ s.cursor.toNat + n ≤ j.toNat) →
    Memory.read t.memory j = Memory.read s.memory j
  frame : t = { s with memory := t.memory, cursor := t.cursor, resp := t.resp }

/-- A string that finds the cursor at capacity consumes nothing (R202). -/
theorem wroteString_full {c : Byte} {cs : List Byte} {s u : State} {n : Nat} (hfull : s.cursor.toNat = 16)
    (hrest : WroteString cs (answer false s) u n) : WroteString (c :: cs) s u n := by
  obtain ⟨hn, hcursor, -, hothers, hframe⟩ := hrest
  have hat : (answer false s).cursor.toNat = 16 := hfull
  have hzero : n = 0 := by omega
  exact ⟨by omega, hcursor, fun k _ hk => by omega, hothers, hframe⟩

/-- Below capacity the first character is stored, and the rest of the string leaves its slot alone. -/
theorem wroteString_cons {c : Byte} {cs : List Byte} {s t u : State} {n : Nat} (hc : s.cursor.toNat < 16)
    (hglyph : ∀ j : SlotIndex, j.toNat = s.cursor.toNat → Memory.glyph t.memory j = encodeChar c)
    (hother : ∀ j : SlotIndex, j.toNat ≠ s.cursor.toNat → Memory.read t.memory j = Memory.read s.memory j)
    (hnext : t.cursor.toNat = s.cursor.toNat + 1)
    (hframe : t = { s with memory := t.memory, cursor := t.cursor, resp := true })
    (hrest : WroteString cs t u n) : WroteString (c :: cs) s u (1 + n) := by
  obtain ⟨hn, hcursor, hglyphs, hothers, hframe'⟩ := hrest
  rw [hnext] at hn hcursor hglyphs hothers
  refine ⟨?_, by omega, fun k hk hkn => ?_, fun j hj => ?_, ?_⟩
  · rw [List.length_cons]
    omega
  · cases k with
    | zero =>
      have hslot : (BitVec.ofNat 4 (s.cursor.toNat + 0)).toNat = s.cursor.toNat := (slot_eq_ofNat_iff hc).1 rfl
      have hkept := hothers (BitVec.ofNat 4 (s.cursor.toNat + 0)) (.inl (by omega))
      rw [Memory.glyph, hkept]
      exact hglyph _ hslot
    | succ k =>
      have hshift : s.cursor.toNat + (k + 1) = s.cursor.toNat + 1 + k := by omega
      rw [hshift]
      exact hglyphs k (Nat.lt_of_succ_lt_succ hk) (by omega)
  · rw [hothers j (by omega), hother j (by omega)]
  · rw [hframe', hframe]

theorem runWritestr_wrote (cs : List Byte) {s : State} (hv : s.config.valid = true) (hc : s.cursor.toNat ≤ 16) :
    ∃ t n, runWritestr cs s = .next (t, n) ∧ WroteString cs s t n := by
  induction cs generalizing s with
  | nil => exact ⟨s, 0, rfl, by simp, rfl, fun k hk => absurd hk (Nat.not_lt_zero k), fun _ _ => rfl, rfl⟩
  | cons c cs ih =>
    obtain ⟨hfull, hbelow⟩ := writeStoresAtCursor.2 s c hv
    rcases Nat.lt_or_ge s.cursor.toNat 16 with hlt | hge
    · obtain ⟨t, hexec, hglyph, -, hother, hnext, hframe⟩ := hbelow hlt
      have hresp : t.resp = true := by rw [hframe]
      have hconfig : t.config = s.config := by rw [hframe]
      obtain ⟨u, n, hrun, hwrote⟩ := ih (hconfig ▸ hv) (by omega)
      refine ⟨u, 1 + n, ?_, wroteString_cons hlt hglyph hother hnext hframe hwrote⟩
      rw [runWritestr_cons hexec hrun, hresp]
      rfl
    · obtain ⟨u, n, hrun, hwrote⟩ := ih (s := answer false s) hv hc
      refine ⟨u, n, ?_, wroteString_full (by omega) hwrote⟩
      rw [runWritestr_cons (hfull hge) hrun]
      exact congrArg (fun k => Host.Outcome.next (u, k)) (Nat.zero_add n)

/-- Settles O26: by induction on the string, each character the `WRITE` of R133. -/
theorem writestrFillsFromCursor : Obligations.WritestrFillsFromCursor := by
  intro cs s hv hc
  obtain ⟨t, n, hrun, hwrote⟩ := runWritestr_wrote cs hv hc
  exact ⟨rfl, t, n, hrun, hwrote.consumed, hwrote.cursor, hwrote.glyphs, hwrote.others, hwrote.frame⟩

end Sys2Proof.Machine
end

section
/-! What a refresh reads (10_state.md section 3, 20_memory.md section 1): of the buffer the active slot only, of the
input ports `now` only, and the cursor not at all. A refresh is carried through the update of the rest. -/

namespace Sys2Proof.Machine

/-! ## The state with another buffer, cursor and input ports -/

/-- `s` with the parts replaced of which a refresh reads the active slot and `now` only. -/
def State.withUnread (s : State) (m : Memory) (c : BitVec 5) (p : Ports) : State :=
  ((s.withMemory m).withCursor c).withPorts p

/-- `mapNext` looks at its function on the next state only. -/
theorem mapNext_congr {f g : State → State} {o : Answer} (h : ∀ t, o = .next t → f t = g t) :
    mapNext f o = mapNext g o := by
  cases o with
  | next t => exact congrArg Host.Outcome.next (h t rfl)
  | fault r => rfl
  | refused r => rfl

section Unread
variable (s : State) (m : Memory) (c : BitVec 5) (p : Ports)

theorem gpioWrites_withUnread (ws : List (PinId × Level)) :
    gpioWrites ws (s.withUnread m c p) = (gpioWrites ws s).withUnread m c p := by
  induction ws generalizing s with
  | nil => rfl
  | cons w ws ih =>
    have hone : gpioWrite (s.withUnread m c p) w = (gpioWrite s w).withUnread m c p := by
      unfold gpioWrite
      split <;> rfl
    rw [gpioWrites_cons, gpioWrites_cons, hone, ih]

variable {s m c p}

/-- The blink update reads `now` (R181). -/
theorem blinkUpdate_withUnread (hnow : p.now = s.ports.now) :
    blinkUpdate (s.withUnread m c p) = (blinkUpdate s).withUnread m c p := by
  have hconfig : (s.withUnread m c p).config = s.config := rfl
  have hports : (s.withUnread m c p).ports.now = s.ports.now := hnow
  rw [blinkUpdate, blinkUpdate, hconfig]
  cases s.config.timebase with
  | wallClock =>
    simp only [blinkUpdateWall, hports, apply_ite (fun u : State => u.withUnread m c p)]
    rfl
  | tickCount =>
    simp only [blinkUpdateTick, apply_ite (fun u : State => u.withUnread m c p)]
    rfl

/-- The scan reads the point of the active slot (R158). -/
theorem scanDigit_withUnread (g : Fin 18) (hslot : Memory.read m s.activeDigit = Memory.read s.memory s.activeDigit) :
    scanDigit g (s.withUnread m c p) = (scanDigit g s).withUnread m c p := by
  have hdp : Memory.dp m s.activeDigit = Memory.dp s.memory s.activeDigit := by rw [Memory.dp, hslot, Memory.dp]
  rw [scanDigit_eq, gpioWrites_withUnread, scanDigit_eq, ← hdp]
  rfl

/-- The effective glyph reads the code and the blink flag of the slot (R157). -/
theorem effectiveGlyph_withUnread {a : SlotIndex} (hslot : Memory.read m a = Memory.read s.memory a) :
    effectiveGlyph (s.withUnread m c p) a = effectiveGlyph s a := by
  simp only [effectiveGlyph, Memory.blink, Memory.glyph, ← hslot]
  rfl

theorem refreshEnabled_of_le {s : State} (h : s.config.displaysCount ≤ s.activeDigit.toNat) :
    refreshEnabled s = .refused .activeDigitOutOfRange := if_pos h

/-- A refresh does the same, refusals included, whatever else stands in the buffer, the cursor and the ports. -/
theorem exec_refresh_withUnread (hslot : Memory.read m s.activeDigit = Memory.read s.memory s.activeDigit)
    (hnow : p.now = s.ports.now) :
    exec .refresh (s.withUnread m c p) = mapNext (fun t => t.withUnread m c p) (exec .refresh s) := by
  have hglyph : effectiveGlyph (blinkUpdate (s.withUnread m c p)) s.activeDigit =
      effectiveGlyph (blinkUpdate s) s.activeDigit := by
    rw [blinkUpdate_withUnread hnow]
    exact effectiveGlyph_withUnread (by rwa [blinkUpdate_memory])
  have hscan (g : Fin 18) : scanDigit g (blinkUpdate (s.withUnread m c p)) =
      (scanDigit g (blinkUpdate s)).withUnread m c p := by
    rw [blinkUpdate_withUnread hnow]
    exact scanDigit_withUnread g (by rwa [blinkUpdate_activeDigit, blinkUpdate_memory])
  by_cases hv : s.config.valid = true
  swap
  · have hinvalid : s.config.valid = false := by simpa using hv
    rw [exec_invalid hinvalid, exec_invalid (s := s.withUnread m c p) hinvalid]
    rfl
  cases he : s.enabled with
  | false =>
    rw [exec_refresh_disabled hv he, exec_refresh_disabled (s := s.withUnread m c p) hv he]
    rfl
  | true =>
    by_cases ha : s.activeDigit.toNat < s.config.displaysCount
    · cases hrow : glyphRow (effectiveGlyph (blinkUpdate s) s.activeDigit) with
      | none =>
        rw [exec_refresh_enabled hv he, exec_refresh_enabled (s := s.withUnread m c p) hv he,
          (refreshEnabled_eq_refused ha).2 ⟨hrow, rfl⟩, (refreshEnabled_eq_refused (s := s.withUnread m c p) ha).2
            ⟨(congrArg glyphRow hglyph).trans hrow, rfl⟩]
        rfl
      | some g =>
        rw [exec_refresh hv he ha hrow, exec_refresh (s := s.withUnread m c p) hv he ha
          ((congrArg glyphRow hglyph).trans hrow), hscan]
        rfl
    · rw [exec_refresh_enabled hv he, exec_refresh_enabled (s := s.withUnread m c p) hv he,
        refreshEnabled_of_le (Nat.not_lt.1 ha), refreshEnabled_of_le (s := s.withUnread m c p) (Nat.not_lt.1 ha)]
      rfl

end Unread

/-- A refresh keeps the buffer and the cursor, in every state. -/
theorem refresh_keeps_memory_cursor {s t : State} (h : exec .refresh s = .next t) :
    t.memory = s.memory ∧ t.cursor = s.cursor := by
  refine ⟨by simpa using memory_of_not_bufferCommand rfl h, ?_⟩
  rcases cursor_exec_cases h with hc | ⟨hi, -⟩ | ⟨pos, hi, -⟩ | ⟨ch, hi, -⟩
  · exact hc
  · exact (nomatch hi)
  · exact (nomatch hi)
  · exact (nomatch hi)

/-- Settles O55: the cursor is among what a refresh does not read. -/
theorem refreshIgnoresTheCursor : Obligations.RefreshIgnoresTheCursor := by
  intro s c
  refine (exec_refresh_withUnread (m := s.memory) (c := c) (p := s.ports) rfl rfl).trans (mapNext_congr fun t h => ?_)
  obtain ⟨hmemory, -⟩ := refresh_keeps_memory_cursor h
  obtain ⟨-, hports, -⟩ := exec_keeps_inputs h
  rw [← hmemory, ← hports]
  rfl

/-- Settles O56: the active slot is among those the two buffers have in common, and a refresh reads no other. -/
theorem hiddenSlotsNeverShown : Obligations.HiddenSlotsNeverShown := by
  intro s m ha hslots
  refine (exec_refresh_withUnread (m := m) (c := s.cursor) (p := s.ports) (hslots _ ha) rfl).trans
    (mapNext_congr fun t h => ?_)
  obtain ⟨-, hcursor⟩ := refresh_keeps_memory_cursor h
  obtain ⟨-, hports, -⟩ := exec_keeps_inputs h
  rw [← hcursor, ← hports]
  rfl

/-- A refresh reads `now` and no other input port. -/
theorem exec_refresh_withPorts {s : State} {p : Ports} (hnow : p.now = s.ports.now) :
    exec .refresh (s.withPorts p) = mapNext (fun t => t.withPorts p) (exec .refresh s) := by
  refine (exec_refresh_withUnread (m := s.memory) (c := s.cursor) (p := p) rfl hnow).trans (mapNext_congr fun t h => ?_)
  obtain ⟨hmemory, hcursor⟩ := refresh_keeps_memory_cursor h
  rw [← hmemory, ← hcursor]
  rfl

end Sys2Proof.Machine
end

section
/-! What a step runs (30_encoding.md R105): nothing, the command presented, or the refresh tick. -/

namespace Sys2Proof.Machine

/-- A step to which nothing is presented samples the ports and does no more. -/
theorem step_of_quiet {s : State} (hv : s.config.valid = true) (hcmd : (nextPorts s).cmdValid = false)
    (htick : (nextPorts s).refreshTick = false) : step s = .next (sample s) := by
  have hcommand : commandPhase (sample s) = .next (sample s) := by
    rw [commandPhase, sample_ports, hcmd, if_neg Bool.false_ne_true]
  rw [step_valid hv, hcommand, andThen, tickPhase, sample_ports, htick, if_neg Bool.false_ne_true]

/-- A tick without a command: `resp` is the answer of the refresh (R155). -/
theorem tickPhase_of_tick {s : State} (hcmd : s.ports.cmdValid = false) (htick : s.ports.refreshTick = true) :
    tickPhase s = exec .refresh s := by
  rw [tickPhase, if_pos htick]
  cases exec .refresh s with
  | next t => rw [keepCommandAnswer, hcmd, if_neg Bool.false_ne_true]
  | fault r => rfl
  | refused r => rfl

/-- A step to which a tick and no command is presented performs the refresh, in the sampled state. -/
theorem step_of_tick {s : State} (hv : s.config.valid = true) (hcmd : (nextPorts s).cmdValid = false)
    (htick : (nextPorts s).refreshTick = true) : step s = exec .refresh (sample s) := by
  have hcommand : commandPhase (sample s) = .next (sample s) := by
    rw [commandPhase, sample_ports, hcmd, if_neg Bool.false_ne_true]
  rw [step_valid hv, hcommand]
  exact tickPhase_of_tick hcmd htick

theorem nextPorts_cons {s : State} {p : Ports} {rest : List Ports} (h : s.pending = p :: rest) : nextPorts s = p := by
  simp only [nextPorts, h]

theorem nextPorts_nil {s : State} (h : s.pending = []) :
    nextPorts s = { s.ports with cmdValid := false, refreshTick := false } := by
  simp only [nextPorts, h]

/-- Settles O57: the three cases of what stands on the ports, which a host that presents nothing more leaves quiet. -/
theorem stepRunsWhatIsPresented : Obligations.StepRunsWhatIsPresented := by
  refine ⟨fun s p rest hv hpending => ⟨fun hcmd htick => ?_, fun hcmd htick i hi => ?_, fun hcmd htick => ?_⟩,
    fun s hv hpending => ?_⟩
  · rw [step_of_quiet hv (by rwa [nextPorts_cons hpending]) (by rwa [nextPorts_cons hpending]),
      sample_of_pending hpending]
  · rw [step_of_command hv hpending hcmd htick, performCommand_of_ok hi]
  · rw [step_of_tick hv (by rwa [nextPorts_cons hpending]) (by rwa [nextPorts_cons hpending]),
      sample_of_pending hpending]
  · rw [step_of_quiet hv (by rw [nextPorts_nil hpending]) (by rw [nextPorts_nil hpending]), sample,
      nextPorts_nil hpending, hpending]
    rfl

/-- Settles O60: the word stands at the head of what is presented, and the rest stays behind it. -/
theorem fetchWordRunsNext : Obligations.FetchWordRunsNext := by
  intro s w i hv hi
  have hdecode : decodeWord (BitVec.ofNat 24 (w % 2 ^ 24)) = .ok i := by
    unfold decodeTableWord at hi
    split at hi
    · next j hj => rw [hj, Option.some.inj hi]
    · cases hi
  rw [step_of_command (s := s.withFetchWord 24 w) hv rfl rfl rfl]
  exact congrFun (performCommand_of_ok hdecode) _

/-- Ports set again hide what they were before. -/
theorem mapNext_withPorts_withPorts (p q : Ports) (o : Answer) :
    mapNext (fun t => t.withPorts q) (mapNext (fun t => t.withPorts p) o) = mapNext (fun t => t.withPorts q) o := by
  cases o <;> rfl

/-- Settles O59: both deliveries run the refresh, in states that differ in input ports other than `now`. -/
theorem opcodeAndTickRefreshAlike : Obligations.OpcodeAndTickRefreshAlike := by
  intro s now rd w v q hw
  generalize hopcode : (⟨true, w, false, now, rd⟩ : Ports) = p₁
  generalize htick : (⟨false, v, true, now, rd⟩ : Ports) = p₂
  have hnow : p₂.now = p₁.now := by rw [← hopcode, ← htick]
  by_cases hv : s.config.valid = true
  · have hstep₁ : step (s.presenting [p₁]) = exec .refresh ((s.withTrace []).withPorts p₁) := by
      rw [step_of_command (s := s.presenting [p₁]) hv rfl (by rw [← hopcode]) (by rw [← hopcode]),
        ← performCommand_of_ok hw, ← hopcode]
      rfl
    have hstep₂ : step (s.presenting [p₂]) = exec .refresh ((s.withTrace []).withPorts p₂) := by
      rw [step_of_tick (s := s.presenting [p₂]) hv (by rw [← htick]; rfl) (by rw [← htick]; rfl)]
      rfl
    have hports : exec .refresh ((s.withTrace []).withPorts p₂) =
        mapNext (fun t => t.withPorts p₂) (exec .refresh ((s.withTrace []).withPorts p₁)) :=
      exec_refresh_withPorts (s := (s.withTrace []).withPorts p₁) hnow
    rw [hstep₁, hstep₂, hports, mapNext_withPorts_withPorts]
  · have hinvalid : s.config.valid = false := by simpa using hv
    rw [step_invalid (s := s.presenting [p₁]) hinvalid, step_invalid (s := s.presenting [p₂]) hinvalid]

end Sys2Proof.Machine
end

section
/-! Runs of refresh ticks (42_mux_scheduler.md section 5, 43_blink_timer.md section 3): the induction over the
ticks once, and what it gives for the blink counter and for the scan of the digits. -/

namespace Sys2Proof.Machine

/-! ## The induction over the ticks -/

/-- A tick presented to an enabled state of the invariant is a refresh of the sampled state. -/
theorem step_tick_completes {s : State} {now : Word32} {rest : List Ports} (hs : s.Inv)
    (hpending : s.pending = tickPorts now :: rest) :
    ∃ t, step s = .next t ∧ exec .refresh (sample s) = .next t := by
  obtain ⟨t, h⟩ := exec_completes (sample_keeps_inv hs).runnable .refresh
  have hports : nextPorts s = tickPorts now := nextPorts_cons hpending
  exact ⟨t, (step_of_tick hs.config_valid (by rw [hports]; rfl) (by rw [hports]; rfl)).trans h, h⟩

/-- A property `P n` of the state after `n` ticks that holds at the start, that sampling keeps and that every enabled
refresh carries from `n` to `n + 1` holds at the end of every run of ticks, and the run completes. -/
theorem run_ticks {P : Nat → State → Prop} (hsample : ∀ n u, P n u → P n (sample u))
    (hrefresh : ∀ n u t, u.Inv → u.enabled = true → P n u → exec .refresh u = .next t → P (n + 1) t)
    (nows : List Word32) {n : Nat} {s : State} {rest : List Ports} (hs : s.Inv) (he : s.enabled = true)
    (hpending : s.pending = ticks nows ++ rest) (hP : P n s) :
    ∃ t : State, Host.Core.run Sys2Proof.core nows.length s = .next t ∧ P (n + nows.length) t ∧ t.enabled = true := by
  induction nows generalizing n s with
  | nil => exact ⟨s, rfl, hP, he⟩
  | cons now nows ih =>
    obtain ⟨u, hstep, h⟩ := step_tick_completes hs hpending
    have hsampled := sample_keeps_inv hs
    obtain ⟨-, -, -, henabled, -, -, -, hrest, -⟩ := refresh_frame hsampled he h
    have hu : u.pending = ticks nows ++ rest := by
      rw [hrest, sample_pending, hpending]
      rfl
    obtain ⟨t, hrun, hPt, het⟩ := ih (exec_keeps_inv hsampled h) henabled hu
      (hrefresh n _ u hsampled he (hsample n s hP) h)
    refine ⟨t, (run_succ hstep nows.length).trans hrun, ?_, het⟩
    rwa [List.length_cons, Nat.add_comm nows.length, ← Nat.add_assoc]

/-! ## The blink counter -/

/-- One more than `x`, by the multiples of `T`: the remainder wraps exactly where the quotient counts. -/
theorem succ_mod_div {x T : Nat} (hT : 0 < T) :
    (T ≤ x % T + 1 → (x + 1) % T = 0 ∧ (x + 1) / T = x / T + 1) ∧
    (x % T + 1 < T → (x + 1) % T = x % T + 1 ∧ (x + 1) / T = x / T) := by
  have hx := Nat.div_add_mod x T
  have hlt := Nat.mod_lt x hT
  constructor
  · intro hwrap
    have hmul : x + 1 = T * (x / T + 1) := by rw [Nat.mul_add, Nat.mul_one]; omega
    rw [hmul, Nat.mul_mod_right, Nat.mul_div_cancel_left _ hT]
    exact ⟨rfl, rfl⟩
  · intro hcount
    have hadd : x + 1 = (x % T + 1) + T * (x / T) := by omega
    have hmod : (x + 1) % T = x % T + 1 := by rw [hadd, Nat.add_mul_mod_self_left, Nat.mod_eq_of_lt hcount]
    have hdiv : (x + 1) / T = x / T := by
      conv_lhs => rw [hadd]
      rw [Nat.add_mul_div_left _ _ hT, Nat.div_eq_of_lt hcount, Nat.zero_add]
    exact ⟨hmod, hdiv⟩

theorem decide_odd_succ (q : Nat) : decide ((q + 1) % 2 = 1) = !decide (q % 2 = 1) := by
  rw [← decide_not, decide_eq_decide]
  omega

/-- The interval as the counter uses it: 0 acts as 1 (R182). -/
def State.period (s : State) : Nat := max s.blinkInterval.toNat 1

/-- The counter and the phase `n` ticks after `s`, the interval constant (43_blink_timer.md section 3). -/
structure CountedTo (s : State) (n : Nat) (u : State) : Prop where
  config : u.config = s.config
  interval : u.blinkInterval = s.blinkInterval
  count : u.blinkTimer.toNat = (s.blinkTimer.toNat + n) % s.period
  phase : u.blinkOff = (s.blinkOff ^^ decide ((s.blinkTimer.toNat + n) / s.period % 2 = 1))

theorem countedTo_zero {s : State} (hlt : s.blinkTimer.toNat < s.period) (ps : List Ports) :
    CountedTo s 0 (s.presenting ps) :=
  ⟨rfl, rfl, (Nat.mod_eq_of_lt hlt).symm, by rw [Nat.add_zero, Nat.div_eq_of_lt hlt]; exact (Bool.xor_false _).symm⟩

theorem sample_keeps_countedTo {s u : State} {n : Nat} (h : CountedTo s n u) : CountedTo s n (sample u) :=
  ⟨h.config, h.interval, h.count, h.phase⟩

/-- One refresh more: the update of R182 is the successor of remainder and quotient. -/
theorem countedTo_succ {s u t : State} {n : Nat} (htb : s.config.timebase = .tickCount) (hu : u.Inv)
    (he : u.enabled = true) (hcounted : CountedTo s n u) (h : exec .refresh u = .next t) : CountedTo s (n + 1) t := by
  obtain ⟨hconfig, hinterval, hcount, hphase⟩ := hcounted
  obtain ⟨v, hexec, hdue, hearly, -⟩ := tickCountBlinkUpdate u hu he (hconfig ▸ htb)
  obtain rfl : t = v := Host.Outcome.next.inj (h.symm.trans hexec)
  obtain ⟨hconfig', -, -, -, hinterval', -⟩ := refresh_frame hu he h
  have hpos : 0 < s.period := lt_max_of_lt_right Nat.one_pos
  obtain ⟨hwrap, hnext⟩ := succ_mod_div (x := s.blinkTimer.toNat + n) hpos
  rw [hinterval, hcount] at hdue hearly
  have hperiod : s.period = max s.blinkInterval.toNat 1 := rfl
  rcases Nat.lt_or_ge ((s.blinkTimer.toNat + n) % s.period + 1) s.period with hlt | hge
  · obtain ⟨hoff, htimer⟩ := hearly (by omega)
    obtain ⟨hmod, hdiv⟩ := hnext hlt
    exact ⟨hconfig'.trans hconfig, hinterval'.trans hinterval, by rw [htimer, ← Nat.add_assoc, hmod],
      by rw [hoff, hphase, ← Nat.add_assoc, hdiv]⟩
  · obtain ⟨hoff, htimer⟩ := hdue (by omega)
    obtain ⟨hmod, hdiv⟩ := hwrap hge
    exact ⟨hconfig'.trans hconfig, hinterval'.trans hinterval, by rw [htimer, ← Nat.add_assoc, hmod]; rfl,
      by rw [hoff, hphase, ← Nat.add_assoc, hdiv, decide_odd_succ, Bool.xor_not]⟩

/-- Settles O41: the counter and the phase after `n` ticks, by the induction over the ticks. -/
theorem tickCountTogglesEveryInterval : Obligations.TickCountTogglesEveryInterval := by
  intro s nows hs he htb hlt
  obtain ⟨t, hrun, hcounted, -⟩ := run_ticks (P := CountedTo s) (fun _ _ => sample_keeps_countedTo)
    (fun _ _ _ => countedTo_succ htb) nows (presenting_keeps_inv hs (ticks nows)) he rfl (countedTo_zero hlt _)
  rw [Nat.zero_add] at hcounted
  exact ⟨t, hrun, hcounted.count, hcounted.phase⟩

/-! ## The scan of the digits -/

/-- The lines show digit `a` of the buffer of `s`: its common line alone is asserted, and the segment lines hold its
effective glyph, by the phase of `u`, and its point (R157, R158, R161). -/
structure ShowsDigit (s u : State) (a : SlotIndex) : Prop where
  one_hot : u.oneHot a.toNat
  segments : ∃ g : Fin 18,
    g.val = (if Memory.blink s.memory a = true ∧ u.blinkOff = true then 16 else (Memory.glyph s.memory a).toNat) ∧
    (∀ k, k < 7 → segmentWired s.config k →
      u.line (segmentPin s.config k) = .driven (segLevel s.config (s.config.glyphMask[g].getLsbD k))) ∧
    (segmentWired s.config 7 →
      u.line (segmentPin s.config 7) = .driven (segLevel s.config (Memory.dp s.memory a)))

/-- An enabled refresh shows the active digit. -/
theorem refresh_showsDigit {s t : State} (hs : s.Inv) (hk : s.LinesKnown) (he : s.enabled = true)
    (h : exec .refresh s = .next t) : ShowsDigit s t s.activeDigit := by
  obtain ⟨hconfig, -⟩ := refresh_frame hs he h
  refine ⟨fun i hi hw => ?_, refresh_segments hs he h⟩
  rw [hconfig] at hi hw ⊢
  rw [refresh_commons hs he h hk hi hw, comLevel]
  simp only [decide_eq_true_eq]

/-- The scan `n` ticks after `s`: the buffer, the cursor and the interval are those of `s`, the index has advanced by
`n`, and after the first tick the digit before it is shown (42_mux_scheduler.md section 5). -/
structure ScannedTo (s : State) (n : Nat) (u : State) : Prop where
  config : u.config = s.config
  memory : u.memory = s.memory
  cursor : u.cursor = s.cursor
  interval : u.blinkInterval = s.blinkInterval
  lines_known : u.LinesKnown
  index : u.activeDigit.toNat = (s.activeDigit.toNat + n) % s.config.displaysCount
  shown : n ≠ 0 → ∃ a : SlotIndex, a.toNat = (s.activeDigit.toNat + (n - 1)) % s.config.displaysCount ∧ ShowsDigit s u a

theorem scannedTo_zero {s : State} (hs : s.Inv) (hk : s.LinesKnown) (ps : List Ports) :
    ScannedTo s 0 (s.presenting ps) :=
  ⟨rfl, rfl, rfl, rfl, linesKnown_of_same_lines hk rfl rfl rfl rfl id, (Nat.mod_eq_of_lt hs.active_lt).symm,
    fun h => absurd rfl h⟩

theorem sample_keeps_scannedTo {s u : State} {n : Nat} (h : ScannedTo s n u) : ScannedTo s n (sample u) :=
  ⟨h.config, h.memory, h.cursor, h.interval, linesKnown_of_same_lines h.lines_known rfl rfl rfl rfl id, h.index,
    fun hn => (h.shown hn).imp fun _ ⟨ha, hone, hsegments⟩ => ⟨ha, hone, hsegments⟩⟩

theorem scannedTo_succ {s u t : State} {n : Nat} (hu : u.Inv) (he : u.enabled = true) (hscanned : ScannedTo s n u)
    (h : exec .refresh u = .next t) : ScannedTo s (n + 1) t := by
  obtain ⟨hconfig, hmemory, hcursor, hinterval, hk, hindex, -⟩ := hscanned
  obtain ⟨hconfig', hmemory', hcursor', -, hinterval', -, -, -, hindex'⟩ := refresh_frame hu he h
  obtain ⟨hone, hsegments⟩ := refresh_showsDigit hu hk he h
  rw [hconfig, hmemory] at hsegments
  refine ⟨hconfig'.trans hconfig, hmemory'.trans hmemory, hcursor'.trans hcursor, hinterval'.trans hinterval,
    refresh_keeps_linesKnown hu he h hk, ?_, fun _ => ⟨u.activeDigit, hindex, hone, hsegments⟩⟩
  rw [hindex', hconfig, hindex, Nat.mod_add_mod, Nat.add_assoc]

/-- Settles O53: the scan after the last tick, by the induction over the ticks. -/
theorem refreshTicksScanTheDigits : Obligations.RefreshTicksScanTheDigits := by
  intro s nows hs hk he hne
  obtain ⟨t, hrun, hscanned, het⟩ := run_ticks (P := ScannedTo s) (fun _ _ => sample_keeps_scannedTo)
    (fun _ _ _ => scannedTo_succ) nows (presenting_keeps_inv hs (ticks nows)) he rfl (scannedTo_zero hs hk _)
  rw [Nat.zero_add] at hscanned
  obtain ⟨a, ha, hone, g, hg, hbars, hpoint⟩ := hscanned.shown fun hlen => hne (List.length_eq_zero_iff.1 hlen)
  exact ⟨t, a, g, hrun, ha, hscanned.index, hone, hg, hbars, hpoint, hscanned.memory, hscanned.cursor,
    hscanned.interval, het⟩

end Sys2Proof.Machine
end
